-- ==== Sys2Proof/Word.lean ====
section
/-! DEFINITION. The two word types of the soft-UART transceiver: the 32-bit command and response words
(30_encoding.md R100, R110) and the 8-bit datum (20_memory.md R83). -/

namespace Sys2Proof

/-- A command word or a response word (R100, R110), bit 0 least significant (R11). -/
abbrev Word := BitVec 32

/-- The one datum the block stores and moves (R83). -/
abbrev Byte := BitVec 8

end Sys2Proof
end

