-- ==== Sys2Proof/Syntax.lean ====
section
/-! DEFINITION. The four host commands of SUART-CMD v1 (00_scope.md R2, 30_encoding.md R103), one
constructor per row of spec/opcode_table.json. PUTBLOCKING is no command word: the host agent of
Machine/State.lean expands it (R114). -/

namespace Sys2Proof

/-- A host command with its assembled operand (R102). -/
inductive Instr where
  /-- `INIT baud`: an unsigned number of bits per second, neither scaled nor shifted (R102, R222). -/
  | init (baud : Nat)
  /-- `TRYPUT data`: all 256 values decode (R102, R226). -/
  | tryput (data : Byte)
  /-- `TRYGET`, no operand (R230). -/
  | tryget
  /-- `ISBUSY`, no operand (R232). -/
  | isbusy
  deriving DecidableEq, Repr

end Sys2Proof
end

