-- ==== Sys2Proof/WellFormed.lean ====
section
/-! DEFINITION. Which commands the assembler accepts and the encoding can carry (30_encoding.md R102, R113). -/

namespace Sys2Proof

/-- R113: the assembler refuses a baud outside `0 … 16,777,215`, since R102's operand field has 24 bits.
A data byte outside `0 … 255` cannot be written at all: `Byte` is the check. -/
def wellFormed : Instr → Bool
  | .init baud => decide (baud < 2 ^ 24)
  | .tryput _ => true
  | .tryget => true
  | .isbusy => true

/-- A command the encoding can carry. -/
abbrev WellFormed (i : Instr) : Prop := wellFormed i = true

end Sys2Proof
end

