-- ==== Sys2Proof/Decode.lean ====
section
/-! DEFINITION. The decoder, total on every 32-bit word and rejecting by name (30_encoding.md R100–R105), and
after it the encoder (R101, R113). Both are written from the spec's format table; `opTable` is R103's own
table of masks and matches, against which the decoder is stated to agree. -/

namespace Sys2Proof

/-- Why a word is illegal: the four cases of R105, in its order. -/
inductive IllegalWord where
  /-- (a) `op` is 0 or one of the reserved opcodes 5 … F. -/
  | reservedOp
  /-- (b) an INIT word with `c[27:24] ≠ 0`. -/
  | initReservedBits
  /-- (c) a TRYPUT word with `c[27:8] ≠ 0`. -/
  | tryputReservedBits
  /-- (d) a TRYGET or ISBUSY word with `c[27:0] ≠ 0`. -/
  | operandBits
  deriving DecidableEq, Repr

/-- R104: every word is one of the four commands or illegal. -/
inductive Decoded where
  | instr (i : Instr)
  | illegal (why : IllegalWord)
  deriving DecidableEq, Repr

/-- The opcode field `c[31:28]` (R101). -/
def opField (c : Word) : BitVec 4 := c.extractLsb' 28 4

/-- The INIT operand `zext_32(c[23:0])` (R102). -/
def baudField (c : Word) : Nat := (c.extractLsb' 0 24).toNat

/-- The TRYPUT operand `c[7:0]` (R102). -/
def dataField (c : Word) : Byte := c.extractLsb' 0 8

/-- R103–R105: the command a word is, or why it is none. It looks at the word alone (R104). -/
def decode (c : Word) : Decoded :=
  if opField c = 0x1#4 then
    if c.extractLsb' 24 4 = 0#4 then .instr (.init (baudField c)) else .illegal .initReservedBits
  else if opField c = 0x2#4 then
    if c.extractLsb' 8 20 = 0#20 then .instr (.tryput (dataField c)) else .illegal .tryputReservedBits
  else if opField c = 0x3#4 then
    if c.extractLsb' 0 28 = 0#28 then .instr .tryget else .illegal .operandBits
  else if opField c = 0x4#4 then
    if c.extractLsb' 0 28 = 0#28 then .instr .isbusy else .illegal .operandBits
  else .illegal .reservedOp

/-- R113: a mnemonic assembles to the word `match | operand field` of R103, laid out as in R101. -/
def encode : Instr → Word
  | .init baud => 0x1#4 ++ 0x0#4 ++ BitVec.ofNat 24 baud
  | .tryput data => 0x2#4 ++ 0x0#20 ++ data
  | .tryget => 0x3#4 ++ 0x0#28
  | .isbusy => 0x4#4 ++ 0x0#28

/-- A row of R103's opcode map. -/
structure OpRow where
  mnemonic : String
  mask : Word
  pattern : Word
  deriving DecidableEq, Repr

/-- R103's opcode map. -/
def opTable : List OpRow :=
  [⟨"INIT", 0xFF000000#32, 0x10000000#32⟩,
   ⟨"TRYPUT", 0xFFFFFF00#32, 0x20000000#32⟩,
   ⟨"TRYGET", 0xFFFFFFFF#32, 0x30000000#32⟩,
   ⟨"ISBUSY", 0xFFFFFFFF#32, 0x40000000#32⟩]

/-- R103: a word is the row's command exactly when `(c & mask) = match`. -/
def OpRow.matches (row : OpRow) (c : Word) : Bool := c &&& row.mask == row.pattern

/-- The mnemonic of a command's row (R103). -/
def Instr.mnemonic : Instr → String
  | .init _ => "INIT"
  | .tryput _ => "TRYPUT"
  | .tryget => "TRYGET"
  | .isbusy => "ISBUSY"

/-- The command word whose low `nbits` bits are `w` and whose other bits are 0. A command is one parallel
32-bit word (R83, R100), so there is no byte order to apply. -/
def tableWord (nbits w : Nat) : Word := BitVec.ofNat 32 (w % 2 ^ nbits)

/-- What the decoder reads from the opcode table's numbering of a word. -/
def decodeTableWord (nbits w : Nat) : Option Instr :=
  match decode (tableWord nbits w) with
  | .instr i => some i
  | .illegal _ => none

end Sys2Proof
end

