-- ==== Sys2Proof/Config.lean ====
section
/-! DEFINITION. What an implementation fixes (00_scope.md R8: the parameters a model takes as arguments) and the
one value the spec leaves free (44_cycle_and_pins.md R271: an undriven line without pull-up). -/

namespace Sys2Proof

/-- The parameters of R8. A state carries its block's parameters unchanged (R31), so a statement about every
state is a statement about every value of them. The legal values are `Machine.legalParams`. -/
structure Params where
  /-- `F_CPU`, the frequency of `clk` in Hz. -/
  fCpu : Nat
  /-- `PRESCALER`, clock cycles per timer tick. -/
  prescaler : Nat
  /-- `TIMER_WIDTH` (W), the width of `cnt`, `top` and `rx_cmp`. -/
  timerWidth : Nat
  /-- `TX_FIFO_N`, the slots of the transmit FIFO. -/
  txFifoN : Nat
  /-- `RX_FIFO_N`, the slots of the receive FIFO. -/
  rxFifoN : Nat
  /-- `RX_PULLUP`, whether `INIT` turns the input pull-up on. -/
  rxPullup : Bool
  deriving DecidableEq, Repr

/-- The defaults of R8 for `F_CPU`, `PRESCALER` and `W`. DESIGN CHOICE (log entry 2) for the last three,
which R8 leaves OPEN: the test vectors' values of 95_test_vectors.md (set S4). -/
def Params.default : Params where
  fCpu := 16000000
  prescaler := 8
  timerWidth := 16
  txFifoN := 4
  rxFifoN := 4
  rxPullup := true

/-- FREE VALUE (log entry 5): the level an undriven `rx_pin` shows in a given cycle while its pull-up is off,
drawn afresh in each cycle (R271, 93_implementation_defined.md I3). The arguments are the pin's number and the cycle's.
It has no body, so a statement that holds holds whatever the line does. DESIGN CHOICE (log entry 5): the spec does not
say whether the pins of two instances draw independently; each pin has draws of its own here. -/
opaque Config.undrivenLevel : Nat → Nat → Bool

end Sys2Proof
end

