-- ==== Sys2Proof/Machine/State.lean ====
section
/-! DEFINITION. The state of one block instance (10_state.md R30), the two agents outside it that drive its input
ports (44_cycle_and_pins.md R261, R262), its response port, and the reasons a step can stop. All plain data. -/

namespace Sys2Proof.Machine

/-- FrameState of R16, one constructor per named state. Code 3 is never reached (R44, R64) and has none. -/
inductive FrameState where
  | awaitingStart
  | shiftingData
  | awaitingStop
  deriving DecidableEq, Repr

/-- The level of a pin: space (0), mark (1), or not driven (Z, R270). -/
inductive Level where
  | space
  | mark
  | undriven
  deriving DecidableEq, Repr

/-- The status field of a response word (R110). Codes 4 … 15 are never produced and have no constructor. -/
inductive Status where
  | ok
  | errIllegal
  | errNoinit
  | errBaud
  deriving DecidableEq, Repr

/-- A FIFO's storage array (R70): slot and byte pairs, slots strictly rising, no pair holding 0, which is what an
unlisted slot reads as, because every storage byte is 0 at power-on (R56). -/
abbrev Memory := List Host.Cell

/-- A ring buffer (R56). Its capacity N is a parameter, not a field. -/
structure Fifo where
  storage : Memory
  /-- The next slot to write, owned by the producer. -/
  headIn : Nat
  /-- The next slot to read, owned by the consumer. -/
  headOut : Nat
  deriving DecidableEq, Repr

/-- The record `S` of R30, exactly its fields. The registers whose width is a parameter (R35–R39, R56) are
numbers; `Machine.Block.fits` says that each fits its width. A level is `true` for mark. -/
structure Block where
  /-- R34 -/
  configured : Bool
  /-- R35: the top-count register, W bits. -/
  top : Nat
  /-- R36: clock cycles within one timer tick. -/
  prescCnt : Nat
  /-- R37: the free-running counter, W bits. -/
  cnt : Nat
  /-- R39: the Rx sample-phase threshold, W bits. -/
  rxCmp : Nat
  /-- R40: the Tx tick enable. -/
  txTickEn : Bool
  /-- R40: the start-bit detector enable. -/
  rxDetEn : Bool
  /-- R40: the periodic sampler enable. -/
  rxSampEn : Bool
  /-- R44 -/
  txState : FrameState
  /-- R45 -/
  txBits : BitVec 4
  /-- R46: the transmit shift register. -/
  txSr : Byte
  /-- R48 -/
  rxState : FrameState
  /-- R49 -/
  rxBits : BitVec 4
  /-- R49: the receive accumulator. -/
  rxAcc : Byte
  /-- R51: the level driven on `tx_pin` while `txOe`. -/
  txOut : Bool
  /-- R52: output enable of `tx_pin`. -/
  txOe : Bool
  /-- R53: pull-up enable of `rx_pin`. -/
  rxPu : Bool
  /-- R54: `rx_pin` as sampled in the previous cycle. -/
  rxPrev : Bool
  /-- R56: the transmit FIFO. -/
  txq : Fifo
  /-- R56: the receive FIFO. -/
  rxq : Fifo
  deriving DecidableEq, Repr

/-- One entry of the host agent's program: what it drives on `rst_n`, `cmd_valid` and `cmd` (R262, R263). -/
inductive HostOp where
  /-- One clock cycle: the level of `rst_n`, and the command word presented, if any (`cmd_valid = 1`). -/
  | cycle (rstN : Bool) (cmd : Option Word)
  /-- `PUTBLOCKING data` (R114): one `TRYPUT data` a cycle until one is accepted or answers a non-OK status,
  `rst_n` being 1 throughout (DESIGN CHOICE, log entry 11). -/
  | putBlocking (data : Byte)
  deriving DecidableEq, Repr

/-- The machine: one block with its parameters, its response port, and its environment. -/
structure State where
  /-- The parameters of R8: no operation changes them (R31). -/
  params : Params
  /-- The record `S` of R30. -/
  blk : Block
  /-- Port `rsp_valid` as driven in the last cycle (R262). The model's own field: R30 keeps no port. -/
  rspValid : Bool
  /-- Port `rsp` as driven in the last cycle (R262). The model's own field. -/
  rsp : Word
  /-- The host agent's remaining program, next entry first; a host with none left presents nothing (log entry 1). -/
  host : List HostOp
  /-- The line agent: the levels on `rx_pin` in the coming cycles; beyond them the line is undriven (log entry 1). -/
  line : List Level
  /-- The number of this instance's `rx_pin`: whose draws of `Config.undrivenLevel` an undriven line shows, so that
  the pins of two instances draw each for itself (log entry 5). No step changes it. The model's own field. -/
  pad : Nat
  /-- The number of cycles stepped: which draw of `Config.undrivenLevel` an undriven line shows (log entry 5).
  The model's own field. -/
  cycle : Nat
  deriving DecidableEq, Repr

/-- Why a step stops with a fault. The block itself has none (R300). -/
inductive Fault where
  /-- Raised by `step` before it does anything, on data that are no value of the record R30: a register holding more
  than its width (R35–R39, R56), or a storage cell outside `0 … N−1` or not canonical. SAFE: no run from reset reaches
  one (`Obligations.StepKeepsInvariant`), and no instruction raises it. -/
  | outsideStateSpace
  deriving DecidableEq, Repr

/-- Why a step is refused. -/
inductive Refusal where
  /-- An instruction whose arm of `exec` has no meaning. Raised by no arm of this model. SAFE. -/
  | notModelled (mnemonic : String)
  /-- Raised by `step` when the parameters are outside R8's table; R71: "A model refuses a configuration with any
  other N." SAFE: no parameter ever changes (R31), and `State.reset` has legal ones. -/
  | illegalParameters
  deriving DecidableEq, Repr

/-- An emptied FIFO: every storage byte 0, both heads 0 (R56). -/
def Fifo.zeroed : Fifo := ⟨[], 0, 0⟩

/-- The power-on values of R68. -/
def Block.powerOn : Block where
  configured := false
  top := 0
  prescCnt := 0
  cnt := 0
  rxCmp := 0
  txTickEn := false
  rxDetEn := false
  rxSampEn := false
  txState := .awaitingStart
  txBits := 0#4
  txSr := 0#8
  rxState := .awaitingStart
  rxBits := 0#4
  rxAcc := 0#8
  txOut := true
  txOe := false
  rxPu := false
  rxPrev := true
  txq := Fifo.zeroed
  rxq := Fifo.zeroed

/-- A block with given parameters right after power-on reset (R330), its environment doing nothing yet. -/
def State.powerOn (p : Params) : State where
  params := p
  blk := Block.powerOn
  rspValid := false
  rsp := 0#32
  host := []
  line := []
  pad := 0
  cycle := 0

/-- The machine right after reset (R68, R330), with R8's default parameters. -/
def State.reset : State := State.powerOn Params.default

end Sys2Proof.Machine
end

