-- ==== Sys2Proof/Machine/Operands.lean ====
section
/-! DEFINITION. Operand values and their arithmetic: the legal parameters (00_scope.md R8, R71), the derived
quantities (R10), the clock configuration of INIT (40_clock_timer.md R130–R133), and the response word
(30_encoding.md R110). -/

namespace Sys2Proof.Machine

/-- R71: a FIFO capacity is a power of two and at least 2. -/
def legalCapacity (n : Nat) : Bool := decide (2 ≤ n ∧ 2 ^ Nat.log2 n = n)

/-- The legal values of R8's table. -/
def legalParams (p : Params) : Bool :=
  decide (1 ≤ p.fCpu ∧ 1 ≤ p.prescaler ∧ 2 ≤ p.timerWidth)
    && legalCapacity p.txFifoN && legalCapacity p.rxFifoN

/-- R130: `F_CPU / PRESCALER / baud` rounded to the nearest integer, halves up. -/
def ticksPerBit (p : Params) (baud : Nat) : Nat :=
  (2 * p.fCpu + p.prescaler * baud) / (2 * p.prescaler * baud)

/-- R133: the bauds an `INIT` accepts. -/
def legalBaud (p : Params) (baud : Nat) : Bool :=
  decide (1 ≤ baud ∧ 2 ≤ ticksPerBit p baud ∧ ticksPerBit p baud ≤ 2 ^ p.timerWidth)

/-- R132: the bit period's error against `1 / baud`, as the numerator of a fraction over `F_CPU`. The block does not
correct it. -/
def bitPeriodError (p : Params) (baud : Nat) : Int := (ticksPerBit p baud * p.prescaler * baud : Int) - p.fCpu

/-- R10: `P = top + 1`, the ticks per bit. -/
def period (b : Block) : Nat := b.top + 1

/-- R10: `H = P div 2`, the half-bit offset. -/
def halfBit (b : Block) : Nat := period b / 2

/-- R10, R137: the bit period in clock cycles, `P × PRESCALER`. -/
def bitPeriod (p : Params) (b : Block) : Nat := period b * p.prescaler

/-- The numeric code of a FrameState (R16). -/
def frameCode : FrameState → BitVec 2
  | .awaitingStart => 0
  | .shiftingData => 1
  | .awaitingStop => 2

/-- The numeric code of a status (R110). -/
def statusCode : Status → BitVec 4
  | .ok => 0
  | .errIllegal => 1
  | .errNoinit => 2
  | .errBaud => 3

/-- R110: `r = {status[3:0], 19'b0, flag, data[7:0]}`. -/
def respond (status : Status) (flag : Bool) (data : Byte) : Word :=
  statusCode status ++ 0#19 ++ BitVec.ofBool flag ++ data

/-- The status field `r[31:28]` of a response word (R110). -/
def rspStatus (r : Word) : BitVec 4 := r.extractLsb' 28 4

/-- The flag field `r[8]` of a response word (R110). -/
def rspFlag (r : Word) : Bool := r.getLsbD 8

/-- The data field `r[7:0]` of a response word (R110). -/
def rspData (r : Word) : Byte := r.extractLsb' 0 8

end Sys2Proof.Machine
end

