-- ==== Sys2Proof/Machine/Flags.lean ====
section
/-! DEFINITION. The flags that are derived and not stored (10_state.md R41), computed when they are read. -/

namespace Sys2Proof.Machine

/-- `empty(q) = (q.head_in = q.head_out)` (R41, R73). -/
def Fifo.empty (q : Fifo) : Bool := decide (q.headIn = q.headOut)

/-- `full(q) = ((q.head_in + 1) mod N = q.head_out)` (R41, R73). -/
def Fifo.full (n : Nat) (q : Fifo) : Bool := decide ((q.headIn + 1) % n = q.headOut)

/-- `count(q) = (q.head_in − q.head_out) mod N`, exact integers and the mathematical remainder (R12, R41). -/
def Fifo.count (n : Nat) (q : Fifo) : Nat := (((q.headIn : Int) - q.headOut) % (n : Int)).toNat

/-- `busy = ¬empty(txq) ∨ tx_state ≠ AwaitingStart` (R41, R232). -/
def busy (b : Block) : Bool := !b.txq.empty || decide (b.txState ≠ .awaitingStart)

end Sys2Proof.Machine
end

