-- ==== Sys2Proof/Machine/Ops.lean ====
section
/-! DEFINITION. The named operations: the memory primitives (00_scope.md R14), the FIFO's push and pop
(20_memory.md R76, R78), the shape of the record (10_state.md R35–R39, R56), and the one way a command answers
(R15, R110). The block takes no exception and returns from none (60_exceptions.md R300, R307), so there is no such
operation to share. -/

namespace Sys2Proof.Machine

/-- What a slot that is not listed reads as: the reset value of every storage byte (R56). -/
def Memory.unlisted : Byte := 0#8

/-- `MemRead(q, i, 1)` on a storage array (R14). -/
def Memory.read : Memory → Nat → Byte
  | [], _ => Memory.unlisted
  | (k, v) :: m, i => if k = i then v else Memory.read m i

/-- A cell, listed only if it differs from what an unlisted slot reads as. -/
def Memory.cell (i : Nat) (v : Byte) : Memory := if v = Memory.unlisted then [] else [(i, v)]

/-- `MemWrite(q, i, 1, v)` on a storage array (R14), keeping the canonical form. -/
def Memory.write : Memory → Nat → Byte → Memory
  | [], i, v => Memory.cell i v
  | (k, w) :: m, i, v =>
    if i < k then Memory.cell i v ++ (k, w) :: m
    else if i = k then Memory.cell i v ++ m
    else (k, w) :: Memory.write m i v

/-- The canonical form: slots strictly rising, no cell equal to what an unlisted slot reads as. -/
def Memory.wf (m : Memory) : Bool :=
  decide (m.Pairwise (fun x y => x.1 < y.1) ∧ ∀ c ∈ m, c.2 ≠ Memory.unlisted)

/-- Every listed slot is one of `0 … N−1` (R70). -/
def Memory.within (n : Nat) (m : Memory) : Bool := decide (∀ c ∈ m, c.1 < n)

/-- A FIFO of N slots as R56 declares it: canonical storage of slots `0 … N−1`, both heads `log2 N` bits. -/
def Fifo.fits (n : Nat) (q : Fifo) : Bool :=
  q.storage.wf && q.storage.within n && decide (q.headIn < n ∧ q.headOut < n)

/-- The record as R30 declares it: every register within its width (R35, R36, R37, R39, R56). -/
def Block.fits (p : Params) (b : Block) : Bool :=
  decide (b.top < 2 ^ p.timerWidth ∧ b.prescCnt < p.prescaler ∧ b.cnt < 2 ^ p.timerWidth ∧
      b.rxCmp < 2 ^ p.timerWidth)
    && b.txq.fits p.txFifoN && b.rxq.fits p.rxFifoN

/-- R76: push a byte; a full FIFO is left as it was and answers `false`. -/
def Fifo.push (n : Nat) (q : Fifo) (v : Byte) : Fifo × Bool :=
  if q.full n then (q, false)
  else ({ q with storage := q.storage.write q.headIn v, headIn := (q.headIn + 1) % n }, true)

/-- R78: pop the oldest byte; the slot keeps it (R80). -/
def Fifo.pop (n : Nat) (q : Fifo) : Option (Byte × Fifo) :=
  if q.empty then none
  else some (q.storage.read q.headOut, { q with headOut := (q.headOut + 1) % n })

/-- Pushes in turn, with what each answered (R228). -/
def Fifo.pushAll (n : Nat) (q : Fifo) : List Byte → Fifo × List Bool
  | [] => (q, [])
  | v :: vs =>
    let rest := Fifo.pushAll n (q.push n v).1 vs
    (rest.1, (q.push n v).2 :: rest.2)

/-- The bytes a FIFO holds, oldest first (R81). -/
def Fifo.contents (n : Nat) (q : Fifo) : List Byte :=
  (List.range (q.count n)).map fun k => q.storage.read ((q.headOut + k) % n)

/-- A command's end: the block as the command leaves it, and its response word on the response port (R15, R110). -/
def State.answer (s : State) (b : Block) (status : Status) (flag : Bool) (data : Byte) : State :=
  { s with blk := b, rspValid := true, rsp := respond status flag data }

/-- A cycle with `cmd_valid = 0`: no response, and `rsp` is 0 (R220, R262). -/
def State.silent (s : State) : State := { s with rspValid := false, rsp := 0#32 }

/-- R235: every command but `INIT` answers `ERR_NOINIT` and writes no state while `configured = 0`. -/
def whenConfigured (s : State) (t : State) : Host.Outcome State Fault Refusal :=
  if s.blk.configured then .next t else .next (s.answer s.blk .errNoinit false 0#8)

/-- R236: an illegal word answers `ERR_ILLEGAL` and writes no state. -/
def State.illegal (s : State) : State := s.answer s.blk .errIllegal false 0#8

end Sys2Proof.Machine
end

