-- ==== Sys2Proof/Machine/Timer.lean ====
section
/-! DEFINITION. The timer and the three event conditions (40_clock_timer.md R135–R141, 42_rx_engine.md R191). -/

namespace Sys2Proof.Machine

/-- R135: `tick := (S.presc_cnt = PRESCALER − 1)`. -/
def tick (p : Params) (b : Block) : Bool := decide (b.prescCnt + 1 = p.prescaler)

/-- R136: the counter after a tick, counting `0, 1, …, top, 0, …`. -/
def nextCnt (b : Block) : Nat := if b.cnt = b.top then 0 else b.cnt + 1

/-- R135 and R136: the timer step of a configured cycle. -/
def timerStep (p : Params) (b : Block) : Block :=
  if tick p b then { b with prescCnt := 0, cnt := nextCnt b }
  else { b with prescCnt := b.prescCnt + 1 }

/-- R139: `tx_match := tick ∧ (cnt' = S.top)`. -/
def txMatch (p : Params) (b : Block) : Bool := tick p b && decide (nextCnt b = b.top)

/-- R140: `rx_match := tick ∧ (cnt' = S.rx_cmp)`. -/
def rxMatch (p : Params) (b : Block) : Bool := tick p b && decide (nextCnt b = b.rxCmp)

/-- R139: the Tx tick, gated by the enable as it stood before the cycle. -/
def txFire (p : Params) (b : Block) : Bool := txMatch p b && b.txTickEn

/-- R140: the sampler firing, gated by the enable as it stood before the cycle. -/
def rxFire (p : Params) (b : Block) : Bool := rxMatch p b && b.rxSampEn

/-- R191: `edge := S.rx_det_en ∧ (S.rx_prev = 1) ∧ (r = 0)`. -/
def edge (r : Bool) (b : Block) : Bool := b.rxDetEn && b.rxPrev && !r

end Sys2Proof.Machine
end

