-- ==== Sys2Proof/Machine/TxEngine.lean ====
section
/-! DEFINITION. The transmit framing engine (41_tx_engine.md R160–R164). -/

namespace Sys2Proof.Machine

/-- R161: a Tx tick in `AwaitingStart` with `txq` empty. -/
def txIdle (b : Block) : Block := { b with txTickEn := false, txOut := true }

/-- R162: a Tx tick in `AwaitingStart` that pops `v`, leaving the FIFO `q`. -/
def txStart (v : Byte) (q : Fifo) (b : Block) : Block :=
  { b with txq := q, txSr := v, txOut := false, txBits := 8#4, txState := .shiftingData }

/-- R163: a Tx tick in `ShiftingData`, bit 7 first. -/
def txData (b : Block) : Block :=
  { b with
    txOut := b.txSr.getLsbD 7
    txSr := b.txSr <<< 1
    txBits := b.txBits - 1#4
    txState := if b.txBits - 1#4 = 0#4 then .awaitingStop else .shiftingData }

/-- R164: a Tx tick in `AwaitingStop`. -/
def txStop (b : Block) : Block := { b with txOut := true, txState := .awaitingStart }

/-- R160: one Tx tick. The pop answers `none` exactly when `txq` is empty (R78). -/
def txStep (p : Params) (b : Block) : Block :=
  match b.txState with
  | .awaitingStart =>
    match b.txq.pop p.txFifoN with
    | none => txIdle b
    | some (v, q) => txStart v q b
  | .shiftingData => txData b
  | .awaitingStop => txStop b

end Sys2Proof.Machine
end

