-- ==== Sys2Proof/Machine/RxEngine.lean ====
section
/-! DEFINITION. The receive engine: the start-bit detection and the sampler firing (42_rx_engine.md R192–R198), and
the engines' part of one cycle (44_cycle_and_pins.md R260, steps 1 to 3). -/

namespace Sys2Proof.Machine

/-- R192: the start-bit detection, on the block after the timer step (`t0 = cnt'`). -/
def rxDetect (b : Block) : Block :=
  { b with
    rxCmp := (b.cnt + halfBit b) % period b
    rxDetEn := false
    rxSampEn := true
    rxState := .awaitingStart }

/-- R195: a firing at the middle of the start bit, whose level is not looked at. -/
def rxMidStart (b : Block) : Block := { b with rxState := .shiftingData, rxBits := 8#4, rxAcc := 0#8 }

/-- R196: the accumulator after a data sample, `((S.rx_acc << 1) | r) & 0xFF`. -/
def shiftIn (acc : Byte) (r : Bool) : Byte := acc <<< 1 ||| (BitVec.ofBool r).setWidth 8

/-- R196: a firing at the middle of a data bit. The eighth pushes the byte; a full `rxq` drops it silently and the
rest still happens (R197). -/
def rxData (p : Params) (r : Bool) (b : Block) : Block :=
  let acc := shiftIn b.rxAcc r
  if b.rxBits - 1#4 = 0#4 then
    { b with
      rxAcc := acc
      rxBits := b.rxBits - 1#4
      rxq := (b.rxq.push p.rxFifoN acc).1
      rxState := .awaitingStop }
  else { b with rxAcc := acc, rxBits := b.rxBits - 1#4 }

/-- R198: a firing at the middle of the stop bit, whose level is not looked at. -/
def rxMidStop (b : Block) : Block :=
  { b with rxSampEn := false, rxDetEn := true, rxState := .awaitingStart }

/-- R194: one sampler firing. -/
def rxStep (p : Params) (r : Bool) (b : Block) : Block :=
  match b.rxState with
  | .awaitingStart => rxMidStart b
  | .shiftingData => rxData p r b
  | .awaitingStop => rxMidStop b

/-- R260, steps 1 to 3, on a configured block: the timer, then the Tx engine, then the Rx engine, each event
gated by the enables as they stood before the cycle. -/
def configuredEngines (p : Params) (r : Bool) (b : Block) : Block :=
  let b1 := timerStep p b
  let b2 := if txFire p b then txStep p b1 else b1
  let b3 := if edge r b then rxDetect b2 else b2
  if rxFire p b then rxStep p r b3 else b3

/-- R260, steps 1 to 3: nothing internal runs while `configured = 0` (R34, R138). -/
def engines (p : Params) (r : Bool) (b : Block) : Block :=
  if b.configured then configuredEngines p r b else b

/-- R260, step 5: `rx_prev <- r`, configured or not (R54). -/
def recordInput (r : Bool) (b : Block) : Block := { b with rxPrev := r }

/-- A cycle of R260 in which the host presents nothing, as far as the record goes. -/
def quietCycle (p : Params) (r : Bool) (b : Block) : Block := recordInput r (engines p r b)

/-- The record after a run of cycles without commands, the line showing the given samples in turn. -/
def quietRun (p : Params) (b : Block) : List Bool → Block
  | [] => b
  | r :: rs => quietRun p (quietCycle p r b) rs

end Sys2Proof.Machine
end

