-- ==== Sys2Proof/Machine/Commands.lean ====
section
/-! DEFINITION. The meanings of the four host commands (43_host_commands.md R222–R235): the host step, step 4 of
44_cycle_and_pins.md R260, on the state after the engines of the same cycle (R220). -/

namespace Sys2Proof.Machine

/-- The record an accepted `INIT` leaves (R222, R332): everything zeroed but for `configured`, `top`, the armed
detector, the pins and the pull-up; `rx_prev` is not written. -/
def initBlock (p : Params) (baud : Nat) (b : Block) : Block where
  configured := true
  top := ticksPerBit p baud - 1
  prescCnt := 0
  cnt := 0
  rxCmp := 0
  txTickEn := false
  rxDetEn := true
  rxSampEn := false
  txState := .awaitingStart
  txBits := 0#4
  txSr := 0#8
  rxState := .awaitingStart
  rxBits := 0#4
  rxAcc := 0#8
  txOut := true
  txOe := true
  rxPu := p.rxPullup
  rxPrev := b.rxPrev
  txq := Fifo.zeroed
  rxq := Fifo.zeroed

/-- R222, R223: `INIT baud`, accepted whether or not the block is configured. -/
def execInit (baud : Nat) (s : State) : Host.Outcome State Fault Refusal :=
  if legalBaud s.params baud then .next (s.answer (initBlock s.params baud s.blk) .ok false 0#8)
  else .next (s.answer s.blk .errBaud false 0#8)

/-- The record after a `TRYPUT` whose push left `q` and answered `ok` (R226). -/
def putBlock (b : Block) (q : Fifo) (ok : Bool) : Block :=
  { b with txq := q, txTickEn := ok || b.txTickEn }

/-- R226, R227: `TRYPUT data`. -/
def execTryput (data : Byte) (s : State) : Host.Outcome State Fault Refusal :=
  let (q, ok) := s.blk.txq.push s.params.txFifoN data
  whenConfigured s (s.answer (putBlock s.blk q ok) .ok ok 0#8)

/-- R230, R231: `TRYGET`; an empty FIFO answers the NUL sentinel 0. -/
def execTryget (s : State) : Host.Outcome State Fault Refusal :=
  match s.blk.rxq.pop s.params.rxFifoN with
  | some (v, q) => whenConfigured s (s.answer { s.blk with rxq := q } .ok false v)
  | none => whenConfigured s (s.answer s.blk .ok false 0#8)

/-- R232: `ISBUSY`. -/
def execIsbusy (s : State) : Host.Outcome State Fault Refusal :=
  whenConfigured s (s.answer s.blk .ok (busy s.blk) 0#8)

end Sys2Proof.Machine
end

