-- ==== Sys2Proof/Machine/Dispatch.lean ====
section
/-! DEFINITION. One arm per constructor of Instr: the host step of 44_cycle_and_pins.md R260 for a decoded command. -/

namespace Sys2Proof.Machine

def exec (i : Instr) (s : State) : Host.Outcome State Fault Refusal :=
  match i with
  | .init baud => Sys2Proof.Machine.execInit baud s
  | .tryput data => Sys2Proof.Machine.execTryput data s
  | .tryget => Sys2Proof.Machine.execTryget s
  | .isbusy => Sys2Proof.Machine.execIsbusy s

end Sys2Proof.Machine
end

