-- ==== Sys2Proof/Machine/Cycle.lean ====
section
/-! DEFINITION. One clock cycle of the block (44_cycle_and_pins.md R260) with its ports and pins (R262–R264, R270,
R271), the power-on reset (70_reset_and_hazards.md R330), and the two agents that drive the ports: the host's
program with PUTBLOCKING (30_encoding.md R114), and the line. -/

namespace Sys2Proof.Machine

/-- `tx_pin` (R270): the driven level, or not driven. -/
def txPin (b : Block) : Level := if b.txOe then (if b.txOut then .mark else .space) else .undriven

/-- `rx_pullup_en` (R271). -/
def rxPullupEn (b : Block) : Bool := b.rxPu

/-- What `rx_pin` reads when the line shows a level (R264, R271). With no driver it reads 1 while the pull-up is on,
and otherwise the free draw of this cycle. -/
def readLevel (pullup : Bool) (draw : Bool) : Level → Bool
  | .space => false
  | .mark => true
  | .undriven => pullup || draw

/-- The level the line agent shows in the coming cycle: undriven once its list is used up (log entry 1). -/
def State.lineLevel (s : State) : Level := s.line.headD .undriven

/-- `r`, the value of `rx_pin` sampled in the coming cycle (R264). DESIGN CHOICE (log entry 5): the spec does not say
whether two instances' undriven pins draw independently; the draw here is the pin's own, by its number `pad`. -/
def State.sample (s : State) : Bool :=
  readLevel (rxPullupEn s.blk) (Config.undrivenLevel s.pad s.cycle) s.lineLevel

/-- What the host drives in the coming cycle when its next entry is this one (R114, R263). DESIGN CHOICE (log entry 11):
R114, R234 and R330 do not say whether `rst_n` may be 0 while a PUTBLOCKING loop runs, nor what the loop then does; the
loop's entry drives `rst_n = 1` in every cycle of the loop, so no reset falls inside it. -/
def HostOp.drives : HostOp → Bool × Option Word
  | .cycle rstN cmd => (rstN, cmd)
  | .putBlocking data => (true, some (encode (.tryput data)))

/-- `rst_n` and the presented command of the coming cycle; a host with no program left releases the reset and
presents nothing (log entry 1). -/
def State.ports (s : State) : Bool × Option Word := (s.host.head?.map HostOp.drives).getD (true, none)

/-- R114: the loop ends on `flag = 1` or on a status other than OK. -/
def putBlockingDone (r : Word) : Bool := !(decide (rspStatus r = statusCode .ok) && !rspFlag r)

/-- The host's program after a cycle answered `r`: the entry is done, or a PUTBLOCKING tries again. -/
def advanceHost (r : Word) : List HostOp → List HostOp
  | .putBlocking data :: ops => if putBlockingDone r then ops else .putBlocking data :: ops
  | .cycle _ _ :: ops => ops
  | [] => []

/-- The agents outside the block take their step: the host reads the response, the line moves on. -/
def State.advance (s : State) : State :=
  { s with host := advanceHost s.rsp s.host, line := s.line.tail, cycle := s.cycle + 1 }

/-- R260 step 5, and the outside agents' step. -/
def State.endCycle (r : Bool) (s : State) : State :=
  State.advance { s with blk := recordInput r s.blk }

/-- R260 steps 1 to 3. -/
def State.runEngines (r : Bool) (s : State) : State := { s with blk := engines s.params r s.blk }

/-- R330: a cycle with `rst_n = 0` puts the state at the power-on values and takes no command. -/
def State.resetCycle (s : State) : State := State.advance { s with blk := Block.powerOn }.silent

/-- R220, R221: the host step, on the state after the engines. -/
def hostStep (cmd : Option Word) (s : State) : Host.Outcome State Fault Refusal :=
  match cmd with
  | none => .next s.silent
  | some c =>
    match decode c with
    | .illegal _ => .next s.illegal
    | .instr i => exec i s

/-- A next state taken on by `f`; a fault or a refusal stands. -/
def mapNext (f : State → State) : Host.Outcome State Fault Refusal → Host.Outcome State Fault Refusal
  | .next s => .next (f s)
  | .fault x => .fault x
  | .refused x => .refused x

/-- R260: a cycle with `rst_n = 1`. -/
def liveCycle (s : State) : Host.Outcome State Fault Refusal :=
  mapNext (State.endCycle s.sample) (hostStep s.ports.2 (s.runEngines s.sample))

/-- One clock cycle. A configuration outside R8 is refused (R71), and data outside the record R30 fault. -/
def runCycle (s : State) : Host.Outcome State Fault Refusal :=
  if legalParams s.params = false then .refused .illegalParameters
  else if s.blk.fits s.params = false then .fault .outsideStateSpace
  else if s.ports.1 then liveCycle s
  else .next s.resetCycle

/-- The host's next entry becomes one cycle that presents the word, reset released (R263). -/
def presentNext (s : State) (c : Word) : State := { s with host := .cycle true (some c) :: s.host.tail }

/-- The line shows the level in the coming cycle and nothing is known beyond it. -/
def State.withLine (s : State) (l : Level) : State := { s with line := [l] }

/-- The instance with the number of its `rx_pin`. -/
def State.withPad (s : State) (n : Nat) : State := { s with pad := n }

end Sys2Proof.Machine
end

