-- ==== Sys2Proof/Machine/Step.lean ====
section
/-! DEFINITION. The step of the machine: one clock cycle (44_cycle_and_pins.md R260). -/

namespace Sys2Proof.Machine

/-- One clock cycle. -/
def step (s : State) : Host.Outcome State Fault Refusal := runCycle s

/-- `s` with the word, numbered as spec/opcode_table.json numbers it, presented on the command port in the coming
cycle. The block fetches nothing (R33): its commands come from the host's program, which stands for the outside. -/
def State.withFetchWord (s : State) (nbits w : Nat) : State := presentNext s (tableWord nbits w)

end Sys2Proof.Machine
end

