-- ==== Sys2Proof/Machine/Assembler.lean ====
section
/-! DEFINITION. The host side of the command port as the spec writes host programs (30_encoding.md R113): lines of
text, each placed at its clock cycle, assembled to the program the host agent of `State` runs. -/

namespace Sys2Proof.Machine

/-- What one line of a host program asks for (R113). -/
inductive AsmItem where
  /-- A mnemonic with its operand. -/
  | command (i : Instr)
  /-- `.word w`: a raw command word. -/
  | word (w : Word)
  /-- `.idle n`: `cmd_valid = 0` for n cycles. -/
  | idle (n : Nat)
  deriving DecidableEq, Repr

/-- A line, with the cycle of its prefix `@k:`. -/
structure AsmLine where
  cycle : Nat
  item : AsmItem
  deriving DecidableEq, Repr

/-- A cycle in which the host presents nothing. -/
def idleCycle : HostOp := .cycle true none

/-- The cycles an item takes, or `none` where the assembler refuses its operand (R113). -/
def assembleItem : AsmItem → Option (List HostOp)
  | .command i => if WellFormed i then some [.cycle true (some (encode i))] else none
  | .word w => some [.cycle true (some w)]
  | .idle n => some (List.replicate n idleCycle)

/-- R113: cycles with no line have `cmd_valid = 0`. A line placed before the cycle reached is refused, since the
host presents at most one command per cycle (R263). -/
def assembleFrom (now : Nat) : List AsmLine → Option (List HostOp)
  | [] => some []
  | l :: ls =>
    if l.cycle < now then none
    else
      match assembleItem l.item with
      | none => none
      | some ops =>
        (assembleFrom (l.cycle + ops.length) ls).map fun rest =>
          List.replicate (l.cycle - now) idleCycle ++ ops ++ rest

/-- A host program, assembled from cycle 0. -/
def assemble (ls : List AsmLine) : Option (List HostOp) := assembleFrom 0 ls

/-- A digit of a number written in the given base; hexadecimal letters of either case. -/
def digitOf (base : Nat) (c : Char) : Option Nat :=
  let d :=
    if '0' ≤ c ∧ c ≤ '9' then some (c.toNat - '0'.toNat)
    else if 'a' ≤ c ∧ c ≤ 'f' then some (c.toNat - 'a'.toNat + 10)
    else if 'A' ≤ c ∧ c ≤ 'F' then some (c.toNat - 'A'.toNat + 10)
    else none
  d.filter (· < base)

/-- The digits of a number, continued from a value already read. -/
def digitsFrom (base acc : Nat) : List Char → Option Nat
  | [] => some acc
  | c :: cs => (digitOf base c).bind fun d => digitsFrom base (acc * base + d) cs

/-- R113: a decimal number or a `0x` hexadecimal number. -/
def parseNumber : List Char → Option Nat
  | [] => none
  | ['0', 'x'] => none
  | '0' :: 'x' :: cs => digitsFrom 16 0 cs
  | cs => digitsFrom 10 0 cs

/-- R113: `;` starts a comment. -/
def dropComment : List Char → List Char
  | [] => []
  | c :: cs => if c = ';' then [] else c :: dropComment cs

/-- A blank between the tokens of a line (log entry 17). -/
def isBlank (c : Char) : Bool := c = ' ' || c = '\t'

/-- The blank-separated tokens of a line, `cur` being the one under way. -/
def tokensFrom (cur : List Char) : List Char → List (List Char)
  | [] => if cur = [] then [] else [cur]
  | c :: cs =>
    if isBlank c then (if cur = [] then tokensFrom [] cs else cur :: tokensFrom [] cs)
    else tokensFrom (cur ++ [c]) cs

/-- The number of a line's prefix `@k:`, and what follows the prefix (R113). DESIGN CHOICE (log entry 17): R113 says how
an operand's number may be written and not how `k` may; `k` is read as an operand's number is, decimal or `0x`
hexadecimal, and the spec's programs write it in decimal. -/
def parsePlace : List Char → Option (Nat × List Char)
  | '@' :: cs =>
    match cs.dropWhile (· ≠ ':') with
    | _ :: rest => (parseNumber (cs.takeWhile (· ≠ ':'))).map fun k => (k, rest)
    | [] => none
  | _ => none

/-- The number of a one-operand item, within the operand's range (R113). -/
def operandBelow (limit : Nat) (tok : List Char) : Option Nat := (parseNumber tok).filter (· < limit)

/-- The item of a line after its prefix (R113): upper-case mnemonics, and the two directives. DESIGN CHOICE (log entry
17): neither R113 nor R114 says whether a line may be `PUTBLOCKING <byte>`; such a line is refused, because the loop has
no fixed number of cycles while each line has its own cycle `k`. The host agent runs the loop as an entry of its
program, `HostOp.putBlocking`. -/
def parseItem : List (List Char) → Option AsmItem
  | [['I', 'N', 'I', 'T'], n] => (operandBelow (2 ^ 24) n).map fun v => .command (.init v)
  | [['T', 'R', 'Y', 'P', 'U', 'T'], n] =>
    (operandBelow 256 n).map fun v => .command (.tryput (BitVec.ofNat 8 v))
  | [['T', 'R', 'Y', 'G', 'E', 'T']] => some (.command .tryget)
  | [['I', 'S', 'B', 'U', 'S', 'Y']] => some (.command .isbusy)
  | [['.', 'i', 'd', 'l', 'e'], n] => (parseNumber n).map .idle
  | [['.', 'w', 'o', 'r', 'd'], n] => (operandBelow (2 ^ 32) n).map fun v => .word (BitVec.ofNat 32 v)
  | _ => none

/-- What one line of a host program gives: its item, nothing for a line that holds only a comment (R113, as in
95_test_vectors.md P1), or `none` where the line is refused. -/
def parseLine (cs : List Char) : Option (List AsmLine) :=
  match (dropComment cs).dropWhile isBlank with
  | [] => some []
  | text => (parsePlace text).bind fun place => (parseItem (tokensFrom [] place.2)).map fun i => [⟨place.1, i⟩]

/-- All lines of a host program, or `none` if one is refused. -/
def parseProgram : List (List Char) → Option (List AsmLine)
  | [] => some []
  | l :: ls => (parseLine l).bind fun here => (parseProgram ls).map fun rest => here ++ rest

/-- A host program's text to what the host agent presents, cycle by cycle. -/
def assembleText (ls : List (List Char)) : Option (List HostOp) := (parseProgram ls).bind assemble

end Sys2Proof.Machine
end

