-- ==== Sys2Proof/Machine/Wiring.lean ====
section
/-! DEFINITION. Instances wired to one another or to themselves (60_exceptions.md R312): one common clock, a
one-cycle wire from a `tx_pin` to an `rx_pin`. Each step here is `step` with the line level the wire gives. -/

namespace Sys2Proof.Machine

/-- Two instances on one clock. They share no state (R312), so their `rx_pin`s are two pins: A's has number 0 and B's
1, and neither's free draws say anything of the other's (DESIGN CHOICE, log entries 5 and 13: R271 and R312 do not say
whether they are independent). -/
structure Pair where
  a : State
  b : State
  /-- Whether B's `tx_pin` is wired to A's `rx_pin` too; A keeps its own line otherwise. -/
  duplex : Bool
  deriving DecidableEq, Repr

/-- Instance A with the line the wiring gives it. -/
def Pair.inputA (q : Pair) : State := (if q.duplex then q.a.withLine (txPin q.b.blk) else q.a).withPad 0

/-- Instance B: its `r` in cycle k is A's `tx_pin` after A's cycle k−1 (R312). -/
def Pair.inputB (q : Pair) : State := (q.b.withLine (txPin q.a.blk)).withPad 1

/-- Both instances step in every cycle (R312). -/
def Pair.step (q : Pair) : Host.Outcome Pair Fault Refusal :=
  match Machine.step q.inputA, Machine.step q.inputB with
  | .next a, .next b => .next { q with a := a, b := b }
  | .fault f, _ => .fault f
  | .refused r, _ => .refused r
  | _, .fault f => .fault f
  | _, .refused r => .refused r

/-- One instance whose own `tx_pin` is wired to its `rx_pin` (95_test_vectors.md P2). -/
def loopbackStep (s : State) : Host.Outcome State Fault Refusal := step (s.withLine (txPin s.blk))

end Sys2Proof.Machine
end

