-- ==== Sys2Proof/Safety.lean ====
section
/-! DEFINITION. What a good state is (the invariants 10_state.md R60–R67), what is observed of the block
(44_cycle_and_pins.md R274), and when a run has ended (R275), in the terms claims use. -/

namespace Sys2Proof.Machine

/-- The invariants of 10_state.md §9 on the record, one field per rule, with the record's shape. -/
structure Block.Inv (p : Params) (b : Block) : Prop where
  /-- R35–R39, R56: every register within its width. -/
  fits : b.fits p = true
  /-- R60 -/
  unconfigured : b.configured = false → b = { Block.powerOn with rxPrev := b.rxPrev }
  /-- R61 -/
  oneRxEvent : b.configured = true → b.rxDetEn = !b.rxSampEn
  /-- R62 -/
  armedIdle : b.rxDetEn = true → b.rxState = .awaitingStart
  /-- R63 -/
  txEnabled : b.txState ≠ .awaitingStart ∨ b.txq.empty = false → b.txTickEn = true
  /-- R64 -/
  txBitsRange : b.txState = .shiftingData → 1 ≤ b.txBits.toNat ∧ b.txBits.toNat ≤ 8
  /-- R64 -/
  rxBitsRange : b.rxState = .shiftingData → 1 ≤ b.rxBits.toNat ∧ b.rxBits.toNat ≤ 8
  /-- R45 -/
  txBitsRest : b.txState ≠ .shiftingData → b.txBits = 0#4
  /-- R49 -/
  rxBitsRest : b.rxState ≠ .shiftingData → b.rxBits = 0#4
  /-- R65 -/
  counters : b.configured = true → b.cnt ≤ b.top ∧ b.rxCmp ≤ b.top ∧ 1 ≤ b.top
  /-- R67 -/
  pinDriven : b.txOe = b.configured
  /-- R67 -/
  idleMark : b.configured = true → b.txState = .awaitingStart → b.txOut = true

/-- A good state: legal parameters (R8) and a record that meets its invariants. -/
structure State.Inv (s : State) : Prop where
  params : legalParams s.params = true
  blk : s.blk.Inv s.params

/-- What a cycle shows at the ports (R274). -/
structure Observation where
  rspValid : Bool
  rsp : Word
  txPin : Level
  rxPullupEn : Bool
  deriving DecidableEq, Repr

/-- The outputs of the cycle that led to a state (R260, R274). -/
def observe (s : State) : Observation := ⟨s.rspValid, s.rsp, txPin s.blk, rxPullupEn s.blk⟩

/-- The states of a run of `n` cycles, first to last; a run stops short at a fault or a refusal. -/
def trace : Nat → State → List State
  | 0, s => [s]
  | n + 1, s =>
    s :: match step s with
      | .next t => trace n t
      | .fault _ => []
      | .refused _ => []

/-- R274: the observation of a run of `n` cycles, cycle by cycle. -/
def observations (n : Nat) (s : State) : List Observation := (trace n s).tail.map observe

/-- The inputs of one cycle (R260, R274): `r`, and the command word if `cmd_valid = 1`. -/
structure CycleInput where
  r : Bool
  cmd : Option Word
  deriving DecidableEq, Repr

/-- The inputs of the coming cycle. -/
def State.input (s : State) : CycleInput := ⟨s.sample, s.ports.2⟩

/-- The state whose coming cycles get an input sequence, reset released. -/
def State.withInputs (s : State) (ins : List CycleInput) : State :=
  { s with
    host := ins.map fun i => .cycle true i.cmd
    line := ins.map fun i => if i.r then .mark else .space }

/-- R274: the observation given an input sequence. -/
def observationsOn (ins : List CycleInput) (s : State) : List Observation :=
  observations ins.length (s.withInputs ins)

/-- A host program's result (R274): the responses it received, in order, and the `tx_pin` waveform. -/
structure ProgramResult where
  responses : List Word
  txWaveform : List Level
  deriving DecidableEq, Repr

/-- The result an observation holds: `rsp` of every cycle with `rsp_valid = 1`, and `tx_pin` of every cycle (R274). -/
def resultSeen (os : List Observation) : ProgramResult :=
  ⟨(os.filter Observation.rspValid).map Observation.rsp, os.map Observation.txPin⟩

/-- R274: the result of the host's program over `n` cycles. -/
def programResult (n : Nat) (s : State) : ProgramResult := resultSeen (observations n s)

/-- Whether an entry of the host's program presents a command that the block takes; one presented while `rst_n = 0` is
not (R330). -/
def HostOp.presentsCommand : HostOp → Bool
  | .cycle rstN cmd => rstN && cmd.isSome
  | .putBlocking _ => true

/-- R275: a host program has ended when its last command has been presented and answered, so that no entry left presents
one. -/
def hostEnded (s : State) : Bool := s.host.all fun op => !op.presentsCommand

/-- The cycle from `s` to `t` drove a stop bit (R164): after a stop tick, and after nothing else, `tx_state` goes from
`AwaitingStop` to `AwaitingStart` with `tx_tick_en` still 1 (`INIT` and reset clear it, R222, R330). -/
def startsStopBit (s t : State) : Bool :=
  decide (s.blk.txState = .awaitingStop) && decide (t.blk.txState = .awaitingStart) && t.blk.txTickEn

/-- The states of a run (first to last) from the end of its last stop tick's cycle on, if it has a stop tick. -/
def sinceStopTick : List State → Option (List State)
  | s :: t :: run =>
    match sinceStopTick (t :: run) with
    | some later => some later
    | none => if startsStopBit s t then some (t :: run) else none
  | _ => none

/-- R275: at the end of a run the last stop bit has held for one full bit period, that of the clock it was sent with. A
run without a stop tick has none to hold (log entry 18). -/
def stopBitHeld (run : List State) : Bool :=
  match sinceStopTick run with
  | some (t :: later) =>
    let T := bitPeriod t.params t.blk
    decide (T ≤ (t :: later).length) && ((t :: later).take T).all fun u => decide (txPin u.blk = .mark)
  | _ => true

/-- R275's condition on the transmitter at the end of a run: `busy = 0`, `tx_tick_en = 0`, the last stop bit held. -/
def transmitterAtRest (run : List State) : Bool :=
  match run.getLast? with
  | some s => !busy s.blk && !s.blk.txTickEn && stopBitHeld run
  | none => false

/-- How many cycles of a run (its states first to last) it took the host's program to end (R275). -/
def programEnd (run : List State) : Option Nat := run.findIdx? hostEnded

/-- R275: the cycle of a run, counted from 0, in which the transmitter has drained: the first one after the host's
program has ended that leaves the transmitter at rest. It says nothing of the receive side. -/
def drainedCycle (run : List State) : Option Nat :=
  (programEnd run).bind fun ended =>
    (List.range (run.length - 1)).find? fun k => decide (ended ≤ k) && transmitterAtRest (run.take (k + 2))

end Sys2Proof.Machine
end

