-- ==== Sys2Proof/Certificates/Slice0/Obligations.lean ====
section
/-! DEFINITION. The statements for the provers: what the numbered rules of spec/ say the commands, the engines, the
cycle and the whole machine do. Each docstring names the rule it formalises. A statement over every state holds for
every value of the parameters of R8, because a state carries them. -/

open Sys2Proof Sys2Proof.Machine

/-! ### Encoding -/

/-- R103 (the encoding is spec decision D3): a word is each named command exactly when `(c & mask) = match`, and no two
rows match the same word. -/
def Obligations.WordIsCommandExactlyByMask : Prop :=
  (∀ (c : Word) (x y : OpRow), x ∈ opTable → y ∈ opTable → x.matches c = true → y.matches c = true → x = y) ∧
  ∀ c : Word,
    ((∃ baud, decode c = .instr (.init baud)) ↔ c &&& 0xFF000000#32 = 0x10000000#32) ∧
    ((∃ data, decode c = .instr (.tryput data)) ↔ c &&& 0xFFFFFF00#32 = 0x20000000#32) ∧
    (decode c = .instr .tryget ↔ c &&& 0xFFFFFFFF#32 = 0x30000000#32) ∧
    (decode c = .instr .isbusy ↔ c &&& 0xFFFFFFFF#32 = 0x40000000#32)

/-- R105: the illegal words are exactly its four cases. -/
def Obligations.IllegalWordsAreTheFourCases : Prop :=
  ∀ c : Word,
    (∃ why, decode c = .illegal why) ↔
      ((c.extractLsb' 28 4 = 0x0#4 ∨ 0x5#4 ≤ c.extractLsb' 28 4) ∨
       (c.extractLsb' 28 4 = 0x1#4 ∧ c.extractLsb' 24 4 ≠ 0#4) ∨
       (c.extractLsb' 28 4 = 0x2#4 ∧ c.extractLsb' 8 20 ≠ 0#20) ∨
       ((c.extractLsb' 28 4 = 0x3#4 ∨ c.extractLsb' 28 4 = 0x4#4) ∧ c.extractLsb' 0 28 ≠ 0#28))

/-- R101, R102: where the operands stand in a decoded word, every other bit being the opcode or zero. -/
def Obligations.OperandsAreTheLowFields : Prop :=
  ∀ c : Word,
    (∀ baud, decode c = .instr (.init baud) → c.toNat = 1 * 2 ^ 28 + baud ∧ baud < 2 ^ 24) ∧
    (∀ data, decode c = .instr (.tryput data) → c.toNat = 2 * 2 ^ 28 + data.toNat)

/-- R101, R102, R113: decoding the word a well-formed command assembles to gives the command back, for every operand. -/
def Obligations.DecodeOfEncode : Prop :=
  ∀ i : Instr, WellFormed i → decode (encode i) = .instr i

/-- R103, R104: a legal word has one meaning and is the one word of it; what decodes is well-formed. -/
def Obligations.EncodeOfDecode : Prop :=
  ∀ (c : Word) (i : Instr), decode c = .instr i → encode i = c ∧ WellFormed i

/-- 95_test_vectors.md V-CMD, R113: words written out from the encoding, what each decodes as. -/
def Obligations.WordsOfTheVectorsDecode : Prop :=
  decode 0x10002580#32 = .instr (.init 9600) ∧
  decode 0x10FFFFFF#32 = .instr (.init 16777215) ∧
  decode 0x10000000#32 = .instr (.init 0) ∧
  decode 0x200000A5#32 = .instr (.tryput 0xA5#8) ∧
  decode 0x30000000#32 = .instr .tryget ∧
  decode 0x40000000#32 = .instr .isbusy ∧
  decode 0x00000000#32 = .illegal .reservedOp ∧
  decode 0xF0000000#32 = .illegal .reservedOp ∧
  decode 0x11000000#32 = .illegal .initReservedBits ∧
  decode 0x20000100#32 = .illegal .tryputReservedBits ∧
  decode 0x30000001#32 = .illegal .operandBits ∧
  decode 0x40000080#32 = .illegal .operandBits

/-! ### The host commands: completion, results and frames -/

/-- R222, R223 (ranges of spec decision D6): what `INIT` does, for every operand and every state, configured or not. -/
def Obligations.InitEffect : Prop :=
  ∀ (baud : Nat) (s : State) (t : Nat),
    t = (2 * s.params.fCpu + s.params.prescaler * baud) / (2 * s.params.prescaler * baud) →
    ((baud = 0 ∨ t < 2 ∨ 2 ^ s.params.timerWidth < t) →
      exec (.init baud) s = .next { s with rspValid := true, rsp := 0x30000000#32 }) ∧
    (¬ (baud = 0 ∨ t < 2 ∨ 2 ^ s.params.timerWidth < t) →
      exec (.init baud) s = .next { s with
        rspValid := true
        rsp := 0#32
        blk :=
          { configured := true, top := t - 1, prescCnt := 0, cnt := 0, rxCmp := 0
            txTickEn := false, rxDetEn := true, rxSampEn := false
            txState := .awaitingStart, txBits := 0#4, txSr := 0#8
            rxState := .awaitingStart, rxBits := 0#4, rxAcc := 0#8
            txOut := true, txOe := true, rxPu := s.params.rxPullup, rxPrev := s.blk.rxPrev
            txq := ⟨[], 0, 0⟩, rxq := ⟨[], 0, 0⟩ } })

/-- R226, R227, R235: what `TRYPUT` does, for every byte and every state. -/
def Obligations.TryputEffect : Prop :=
  ∀ (data : Byte) (s : State),
    (s.blk.configured = false →
      exec (.tryput data) s = .next { s with rspValid := true, rsp := 0x20000000#32 }) ∧
    (s.blk.configured = true → (s.blk.txq.headIn + 1) % s.params.txFifoN = s.blk.txq.headOut →
      exec (.tryput data) s = .next { s with rspValid := true, rsp := 0#32 }) ∧
    (s.blk.configured = true → (s.blk.txq.headIn + 1) % s.params.txFifoN ≠ s.blk.txq.headOut →
      exec (.tryput data) s = .next { s with
        rspValid := true
        rsp := 0x00000100#32
        blk := { s.blk with
          txTickEn := true
          txq := { s.blk.txq with
            storage := s.blk.txq.storage.write s.blk.txq.headIn data
            headIn := (s.blk.txq.headIn + 1) % s.params.txFifoN } } })

/-- R230, R231, R235: what `TRYGET` does, in every state. -/
def Obligations.TrygetEffect : Prop :=
  ∀ s : State,
    (s.blk.configured = false →
      exec .tryget s = .next { s with rspValid := true, rsp := 0x20000000#32 }) ∧
    (s.blk.configured = true → s.blk.rxq.headIn = s.blk.rxq.headOut →
      exec .tryget s = .next { s with rspValid := true, rsp := 0#32 }) ∧
    (s.blk.configured = true → s.blk.rxq.headIn ≠ s.blk.rxq.headOut →
      exec .tryget s = .next { s with
        rspValid := true
        rsp := (s.blk.rxq.storage.read s.blk.rxq.headOut).setWidth 32
        blk := { s.blk with rxq := { s.blk.rxq with headOut := (s.blk.rxq.headOut + 1) % s.params.rxFifoN } } })

/-- R232, R235: what `ISBUSY` does, in every state. -/
def Obligations.IsbusyEffect : Prop :=
  ∀ s : State,
    (s.blk.configured = false →
      exec .isbusy s = .next { s with rspValid := true, rsp := 0x20000000#32 }) ∧
    (s.blk.configured = true → (s.blk.txq.headIn ≠ s.blk.txq.headOut ∨ s.blk.txState ≠ .awaitingStart) →
      exec .isbusy s = .next { s with rspValid := true, rsp := 0x00000100#32 }) ∧
    (s.blk.configured = true → ¬ (s.blk.txq.headIn ≠ s.blk.txq.headOut ∨ s.blk.txState ≠ .awaitingStart) →
      exec .isbusy s = .next { s with rspValid := true, rsp := 0#32 })

/-- R235 (spec decision D16): every legal command but `INIT` answers `ERR_NOINIT` and writes no state before `INIT`. -/
def Obligations.NoCommandBeforeInit : Prop :=
  ∀ (i : Instr) (s : State), (∀ baud, i ≠ .init baud) → s.blk.configured = false →
    exec i s = .next { s with rspValid := true, rsp := 0x20000000#32 }

/-- R236: an illegal word answers `ERR_ILLEGAL` and writes no state, configured or not. -/
def Obligations.IllegalWordEffect : Prop :=
  ∀ (c : Word) (why : IllegalWord) (s : State), decode c = .illegal why →
    hostStep (some c) s = .next { s with rspValid := true, rsp := 0x10000000#32 }

/-- R111: the status of every answer, in its order of priority, and that a non-OK status changed no state. -/
def Obligations.StatusPriority : Prop :=
  ∀ (c : Word) (s t : State), hostStep (some c) s = .next t →
    ((∃ why, decode c = .illegal why) → rspStatus t.rsp = 1#4) ∧
    (∀ i, decode c = .instr i → (∀ baud, i ≠ .init baud) →
      rspStatus t.rsp = if s.blk.configured then 0#4 else 2#4) ∧
    (∀ baud, decode c = .instr (.init baud) →
      rspStatus t.rsp = if legalBaud s.params baud then 0#4 else 3#4) ∧
    (rspStatus t.rsp ≠ 0#4 → t.blk = s.blk)

/-- R222's frame: what `INIT` leaves unchanged. Outside an accepted one, the whole record (R223). -/
def Obligations.InitFrame : Prop :=
  ∀ (baud : Nat) (s t : State), exec (.init baud) s = .next t →
    t.params = s.params ∧ t.host = s.host ∧ t.line = s.line ∧ t.pad = s.pad ∧ t.cycle = s.cycle ∧
    t.blk.rxPrev = s.blk.rxPrev ∧
    (legalBaud s.params baud = false → t.blk = s.blk)

/-- R226's frame: what `TRYPUT` leaves unchanged: everything but `txq.head_in`, `tx_tick_en` and, of all storage
bytes, the one slot at `txq.head_in` before; where the byte is not accepted, the whole record (R227, R235). -/
def Obligations.TryputFrame : Prop :=
  ∀ (data : Byte) (s t : State), exec (.tryput data) s = .next t →
    t.params = s.params ∧ t.host = s.host ∧ t.line = s.line ∧ t.pad = s.pad ∧ t.cycle = s.cycle ∧
    t.blk = { s.blk with
      txTickEn := t.blk.txTickEn
      txq := { t.blk.txq with headOut := s.blk.txq.headOut } } ∧
    (∀ a, a ≠ s.blk.txq.headIn → t.blk.txq.storage.read a = s.blk.txq.storage.read a) ∧
    (∀ a, t.blk.rxq.storage.read a = s.blk.rxq.storage.read a) ∧
    ((s.blk.configured = false ∨ s.blk.txq.full s.params.txFifoN = true) → t.blk = s.blk)

/-- R230's and R232's frames. `TRYGET` changes `rxq.head_out` only, every storage byte reading as before (R80), and on
an empty or unconfigured block nothing (R231, R235); `ISBUSY` has no side effect at all (R85). -/
def Obligations.TrygetAndIsbusyFrames : Prop :=
  (∀ s t : State, exec .tryget s = .next t →
    t.params = s.params ∧ t.host = s.host ∧ t.line = s.line ∧ t.pad = s.pad ∧ t.cycle = s.cycle ∧
    t.blk = { s.blk with rxq := { s.blk.rxq with headOut := t.blk.rxq.headOut } } ∧
    (∀ a, t.blk.rxq.storage.read a = s.blk.rxq.storage.read a) ∧
    (∀ a, t.blk.txq.storage.read a = s.blk.txq.storage.read a) ∧
    ((s.blk.configured = false ∨ s.blk.rxq.empty = true) → t.blk = s.blk)) ∧
  (∀ s t : State, exec .isbusy s = .next t →
    t.params = s.params ∧ t.host = s.host ∧ t.line = s.line ∧ t.pad = s.pad ∧ t.cycle = s.cycle ∧ t.blk = s.blk)

/-! ### The cycle step -/

/-- R220, R260: with reset released the step runs exactly the decoded command, on the state after the engines of the
same cycle, and then records the input; with no word presented, or an illegal one (R236), the record is that of a cycle
of the engines alone. The model's outside agents advance (log entry 1). -/
def Obligations.StepRunsDecodedCommand : Prop :=
  ∀ s : State, legalParams s.params = true → s.blk.fits s.params = true →
    (∀ (c : Word) (i : Instr), s.ports = (true, some c) → decode c = .instr i →
      step s = mapNext
        (fun u => { u with
          blk := { u.blk with rxPrev := s.sample }
          host := advanceHost u.rsp u.host
          line := u.line.tail
          cycle := u.cycle + 1 })
        (exec i { s with blk := engines s.params s.sample s.blk })) ∧
    (s.ports = (true, none) →
      step s = .next { s with
        blk := quietCycle s.params s.sample s.blk
        rspValid := false
        rsp := 0#32
        host := s.host.tail
        line := s.line.tail
        cycle := s.cycle + 1 }) ∧
    (∀ (c : Word) (why : IllegalWord), s.ports = (true, some c) → decode c = .illegal why →
      step s = .next { s with
        blk := quietCycle s.params s.sample s.blk
        rspValid := true
        rsp := 0x10000000#32
        host := s.host.tail
        line := s.line.tail
        cycle := s.cycle + 1 })

/-- R263, R220: the response is valid in the cycle of the command and in no other, and `rsp` is 0 otherwise (R262). -/
def Obligations.ResponseInTheCycleOfTheCommand : Prop :=
  ∀ s t : State, step s = .next t → s.ports.1 = true →
    t.rspValid = s.ports.2.isSome ∧ (s.ports.2 = none → t.rsp = 0#32)

/-- R330 (spec decision D16): a cycle with `rst_n = 0` puts the record at the power-on values, takes no command and
answers nothing. -/
def Obligations.ResetCycleGivesPowerOnValues : Prop :=
  ∀ s : State, legalParams s.params = true → s.blk.fits s.params = true → s.ports.1 = false →
    ∃ t, step s = .next t ∧ t.rspValid = false ∧ t.rsp = 0#32 ∧ t.params = s.params ∧ txPin t.blk = .undriven ∧
      t.blk =
        { configured := false, top := 0, prescCnt := 0, cnt := 0, rxCmp := 0
          txTickEn := false, rxDetEn := false, rxSampEn := false
          txState := .awaitingStart, txBits := 0#4, txSr := 0#8
          rxState := .awaitingStart, rxBits := 0#4, rxAcc := 0#8
          txOut := true, txOe := false, rxPu := false, rxPrev := true
          txq := ⟨[], 0, 0⟩, rxq := ⟨[], 0, 0⟩ }

/-- R331: before an accepted `INIT` the block does nothing but sample `rx_pin` into `rx_prev`, and its pin is not
driven. -/
def Obligations.NothingRunsBeforeInit : Prop :=
  ∀ s t : State, s.Inv → s.blk.configured = false → s.ports.1 = true → step s = .next t →
    (∀ c baud, s.ports.2 = some c → decode c = .instr (.init baud) → legalBaud s.params baud = false) →
    t.blk = { s.blk with rxPrev := s.sample } ∧ txPin t.blk = .undriven

/-- R224, R265 (b): an accepted `INIT` overrides everything the engines did in its cycle. -/
def Obligations.InitOverridesItsCycle : Prop :=
  ∀ (s : State) (c : Word) (baud : Nat),
    legalParams s.params = true → s.blk.fits s.params = true → s.ports = (true, some c) →
    decode c = .instr (.init baud) → legalBaud s.params baud = true →
    ∃ t, step s = .next t ∧ t.rsp = 0#32 ∧ t.blk = { initBlock s.params baud s.blk with rxPrev := s.sample }

/-- R89 (a), R265 (a): a `TRYPUT` in the cycle in which the Tx engine pops from a full `txq` succeeds. -/
def Obligations.TryputIntoSlotFreedInItsCycle : Prop :=
  ∀ (s : State) (data : Byte),
    s.Inv → s.ports = (true, some (encode (.tryput data))) → s.blk.configured = true →
    txFire s.params s.blk = true → s.blk.txState = .awaitingStart →
    s.blk.txq.full s.params.txFifoN = true →
    ∃ t, step s = .next t ∧ t.rsp = 0x00000100#32 ∧ t.blk.txSr = s.blk.txq.storage.read s.blk.txq.headOut

/-- R89 (b), R265 (a): a `TRYGET` in the cycle in which the Rx engine pushes into an empty `rxq` returns that byte. -/
def Obligations.TrygetOfByteCompletedInItsCycle : Prop :=
  ∀ s : State,
    s.Inv → s.ports = (true, some 0x30000000#32) → s.blk.configured = true →
    rxFire s.params s.blk = true → s.blk.rxState = .shiftingData → s.blk.rxBits = 1#4 →
    s.blk.rxq.empty = true →
    ∃ t, step s = .next t ∧
      t.rsp = ((s.blk.rxAcc <<< 1 ||| (if s.sample then 1#8 else 0#8)).setWidth 32)

/-- R161, R265 (a): a `TRYPUT` in the cycle of an idle tick re-arms the Tx tick, so its byte is not stranded. -/
def Obligations.TryputRearmsTheIdleTick : Prop :=
  ∀ (s : State) (data : Byte),
    s.Inv → s.ports = (true, some (encode (.tryput data))) → s.blk.configured = true →
    txFire s.params s.blk = true → s.blk.txState = .awaitingStart → s.blk.txq.empty = true →
    ∃ t, step s = .next t ∧ t.rsp = 0x00000100#32 ∧ t.blk.txTickEn = true ∧ t.blk.txOut = true ∧
      t.blk.txq.empty = false

/-- R270, R271, R264 (undriven lines of spec decision D15): the pins. An undriven `rx_pin` reads 1 with the pull-up
on; with it off it is the free value of log entry 5, of which nothing is said. -/
def Obligations.PinsFollowTheirRegisters : Prop :=
  ∀ s : State,
    (s.blk.txOe = false → txPin s.blk = .undriven) ∧
    (s.blk.txOe = true → s.blk.txOut = true → txPin s.blk = .mark) ∧
    (s.blk.txOe = true → s.blk.txOut = false → txPin s.blk = .space) ∧
    (∀ ls, s.line = .mark :: ls → s.sample = true) ∧
    (∀ ls, s.line = .space :: ls → s.sample = false) ∧
    (∀ ls, s.line = .undriven :: ls → s.blk.rxPu = true → s.sample = true)

/-- R114 (spec decision D23): the host's PUTBLOCKING loop presents one `TRYPUT` a cycle and ends
on `flag = 1` or a non-OK status, and otherwise tries again. That `rst_n` is 1 in each cycle of the loop is the model's
choice (log entry 11). -/
def Obligations.PutBlockingTriesAgain : Prop :=
  ∀ (s t : State) (data : Byte) (ops : List HostOp),
    s.host = .putBlocking data :: ops → step s = .next t →
    s.ports = (true, some (encode (.tryput data))) ∧ t.rspValid = true ∧
      t.host = if rspStatus t.rsp = 0#4 ∧ rspFlag t.rsp = false then .putBlocking data :: ops else ops

/-- R113, R263: an assembled host program presents each command in the cycle of its prefix. -/
def Obligations.AssemblerPlacesCommands : Prop :=
  ∀ (ls : List AsmLine) (ops : List HostOp), assemble ls = some ops →
    ∀ l ∈ ls, ∀ i, l.item = .command i → ops[l.cycle]? = some (.cycle true (some (encode i)))

/-- R312: both instances of a pair step in every cycle, and B samples the pin A drove in the cycle before. -/
def Obligations.PairStepsTogether : Prop :=
  ∀ q q' : Pair, q.step = .next q' →
    step q.inputA = .next q'.a ∧ step q.inputB = .next q'.b ∧
    (q.a.blk.txOe = true → q.inputB.sample = q.a.blk.txOut) ∧
    (q.a.blk.txOe = false → q.b.blk.rxPu = true → q.inputB.sample = true)

/-! ### The engines -/

/-- R135 (mechanism of spec decision D7), R136: what a configured cycle leaves in the prescaler and the counter,
whatever the engines do in it. -/
def Obligations.TimerOfAConfiguredCycle : Prop :=
  ∀ (p : Params) (r : Bool) (b : Block), b.configured = true →
    (engines p r b).prescCnt = (if b.prescCnt + 1 = p.prescaler then 0 else b.prescCnt + 1) ∧
    (engines p r b).cnt =
      (if b.prescCnt + 1 = p.prescaler then (if b.cnt = b.top then 0 else b.cnt + 1) else b.cnt)

/-- R139, R140, R191: when each event fires. R260, steps 1 to 3: which engine step each one runs, and on what. `b1` is
the record after the timer step, `b2` after the Tx engine. R141, R270: with no event firing nothing but the timer's two
registers changes. R61: a detection and a sampler firing never meet where the invariants hold. R57, R89: of `txq` the
engines write `head_out` only, and never `rxq.head_out`; R34, R35, R52–R54: nor the configuration, the pin directions
or `rx_prev`. R34: before `INIT` nothing runs. -/
def Obligations.EventConditions : Prop :=
  ∀ (p : Params) (b b1 b2 : Block) (r : Bool) (next : Nat),
    next = (if b.cnt = b.top then 0 else b.cnt + 1) →
    b1 = (if b.prescCnt + 1 = p.prescaler then { b with prescCnt := 0, cnt := next }
      else { b with prescCnt := b.prescCnt + 1 }) →
    b2 = (if txFire p b then txStep p b1 else b1) →
    (txFire p b = true ↔ b.prescCnt + 1 = p.prescaler ∧ next = b.top ∧ b.txTickEn = true) ∧
    (rxFire p b = true ↔ b.prescCnt + 1 = p.prescaler ∧ next = b.rxCmp ∧ b.rxSampEn = true) ∧
    (edge r b = true ↔ b.rxDetEn = true ∧ b.rxPrev = true ∧ r = false) ∧
    (b.configured = true → b.Inv p → ¬ (edge r b = true ∧ rxFire p b = true)) ∧
    (b.configured = false → engines p r b = b) ∧
    (b.configured = true →
      (edge r b = false → rxFire p b = false → engines p r b = b2) ∧
      (edge r b = true → rxFire p b = false → engines p r b = rxDetect b2) ∧
      (edge r b = false → rxFire p b = true → engines p r b = rxStep p r b2) ∧
      (txFire p b = false → edge r b = false → rxFire p b = false →
        engines p r b = { b with prescCnt := b1.prescCnt, cnt := b1.cnt })) ∧
    (engines p r b).txq = { b.txq with headOut := (engines p r b).txq.headOut } ∧
    (engines p r b).rxq.headOut = b.rxq.headOut ∧
    (engines p r b).configured = b.configured ∧ (engines p r b).top = b.top ∧ (engines p r b).txOe = b.txOe ∧
    (engines p r b).rxPu = b.rxPu ∧ (engines p r b).rxPrev = b.rxPrev

/-- R161: the idle tick. -/
def Obligations.TxIdleTick : Prop :=
  ∀ (p : Params) (b : Block), b.txState = .awaitingStart → b.txq.headIn = b.txq.headOut →
    txStep p b = { b with txTickEn := false, txOut := true }

/-- R162: the start tick. The load of `tx_sr` is the spec's own inference (D18). -/
def Obligations.TxStartTick : Prop :=
  ∀ (p : Params) (b : Block), b.txState = .awaitingStart → b.txq.headIn ≠ b.txq.headOut →
    txStep p b = { b with
      txq := { b.txq with headOut := (b.txq.headOut + 1) % p.txFifoN }
      txSr := b.txq.storage.read b.txq.headOut
      txOut := false
      txBits := 8#4
      txState := .shiftingData }

/-- R163, over the range `1 … 8` of `tx_bits` that R64 gives it. -/
def Obligations.TxDataTick : Prop :=
  ∀ (p : Params) (b : Block), b.txState = .shiftingData → 1 ≤ b.txBits.toNat → b.txBits.toNat ≤ 8 →
    txStep p b = { b with
      txOut := b.txSr.getLsbD 7
      txSr := b.txSr <<< 1
      txBits := BitVec.ofNat 4 (b.txBits.toNat - 1)
      txState := if b.txBits.toNat = 1 then .awaitingStop else .shiftingData }

/-- R164: the stop tick; `txq` is not looked at. -/
def Obligations.TxStopTick : Prop :=
  ∀ (p : Params) (b : Block), b.txState = .awaitingStop →
    txStep p b = { b with txOut := true, txState := .awaitingStart }

/-- R82, R165, R166 at the level of Tx ticks: ten ticks send one byte, start bit, bit 7 first, stop bit, and one byte
leaves `txq`. -/
def Obligations.TenTicksSendOneByte : Prop :=
  ∀ (p : Params) (b : Block) (v : Byte) (q : Fifo),
    b.txState = .awaitingStart → b.txq.pop p.txFifoN = some (v, q) →
    (List.range 10).map (fun k => ((txStep p)^[k + 1] b).txOut) =
      [false, v.getLsbD 7, v.getLsbD 6, v.getLsbD 5, v.getLsbD 4, v.getLsbD 3, v.getLsbD 2, v.getLsbD 1,
        v.getLsbD 0, true] ∧
    (txStep p)^[10] b = { b with txq := q, txSr := 0#8, txBits := 0#4, txOut := true, txState := .awaitingStart }

/-- R192 (`t0` and the halving are spec decision D11): the start-bit detection, on the record after the timer step. -/
def Obligations.StartBitDetection : Prop :=
  ∀ b : Block,
    rxDetect b = { b with
      rxCmp := (b.cnt + (b.top + 1) / 2) % (b.top + 1)
      rxDetEn := false
      rxSampEn := true
      rxState := .awaitingStart }

/-- R195: the firing at mid start bit; the sample is not looked at. -/
def Obligations.RxMidStartFiring : Prop :=
  ∀ (p : Params) (r : Bool) (b : Block), b.rxState = .awaitingStart →
    rxStep p r b = { b with rxState := .shiftingData, rxBits := 8#4, rxAcc := 0#8 }

/-- R196, R197: the firing at a data bit, over the range `1 … 8` of `rx_bits` that R64 gives it. -/
def Obligations.RxDataFiring : Prop :=
  ∀ (p : Params) (r : Bool) (b : Block) (acc : Byte),
    b.rxState = .shiftingData → 1 ≤ b.rxBits.toNat → b.rxBits.toNat ≤ 8 →
    acc = (b.rxAcc <<< 1 ||| (if r then 1#8 else 0#8)) →
    (b.rxBits.toNat ≠ 1 →
      rxStep p r b = { b with rxAcc := acc, rxBits := BitVec.ofNat 4 (b.rxBits.toNat - 1) }) ∧
    (b.rxBits.toNat = 1 → (b.rxq.headIn + 1) % p.rxFifoN = b.rxq.headOut →
      rxStep p r b = { b with rxAcc := acc, rxBits := 0#4, rxState := .awaitingStop }) ∧
    (b.rxBits.toNat = 1 → (b.rxq.headIn + 1) % p.rxFifoN ≠ b.rxq.headOut →
      rxStep p r b = { b with
        rxAcc := acc
        rxBits := 0#4
        rxState := .awaitingStop
        rxq := { b.rxq with
          storage := b.rxq.storage.write b.rxq.headIn acc
          headIn := (b.rxq.headIn + 1) % p.rxFifoN } })

/-- R198: the firing at mid stop bit; the sample is not looked at. -/
def Obligations.RxMidStopFiring : Prop :=
  ∀ (p : Params) (r : Bool) (b : Block), b.rxState = .awaitingStop →
    rxStep p r b = { b with rxSampEn := false, rxDetEn := true, rxState := .awaitingStart }

/-- R82, R195–R199, R202: ten firings take eight samples MSB first, push the byte they spell whatever it is, and re-arm the
detector, whatever the line shows at the middle of the start and stop bits. -/
def Obligations.TenFiringsReceiveOneByte : Prop :=
  ∀ (p : Params) (b : Block) (v : Byte) (x y : Bool), b.rxState = .awaitingStart →
    ([x, v.getLsbD 7, v.getLsbD 6, v.getLsbD 5, v.getLsbD 4, v.getLsbD 3, v.getLsbD 2, v.getLsbD 1,
      v.getLsbD 0, y].foldl (fun c r => rxStep p r c) b) =
      { b with
        rxq := (b.rxq.push p.rxFifoN v).1
        rxAcc := v
        rxBits := 0#4
        rxState := .awaitingStart
        rxSampEn := false
        rxDetEn := true }

/-- R142, R265 (d): neither engine's part of a cycle depends on the other's state, nor the transmitter's on the line. -/
def Obligations.EnginesAreIndependent : Prop :=
  ∀ (p : Params) (r r' : Bool) (b b' : Block),
    b.configured = b'.configured → b.top = b'.top → b.prescCnt = b'.prescCnt → b.cnt = b'.cnt →
    ((b.txTickEn = b'.txTickEn ∧ b.txState = b'.txState ∧ b.txBits = b'.txBits ∧ b.txSr = b'.txSr ∧
        b.txOut = b'.txOut ∧ b.txq = b'.txq) →
      ((engines p r b).txTickEn = (engines p r' b').txTickEn ∧
        (engines p r b).txState = (engines p r' b').txState ∧
        (engines p r b).txBits = (engines p r' b').txBits ∧
        (engines p r b).txSr = (engines p r' b').txSr ∧
        (engines p r b).txOut = (engines p r' b').txOut ∧
        (engines p r b).txq = (engines p r' b').txq)) ∧
    ((b.rxCmp = b'.rxCmp ∧ b.rxDetEn = b'.rxDetEn ∧ b.rxSampEn = b'.rxSampEn ∧ b.rxState = b'.rxState ∧
        b.rxBits = b'.rxBits ∧ b.rxAcc = b'.rxAcc ∧ b.rxPrev = b'.rxPrev ∧ b.rxq = b'.rxq) →
      ((engines p r b).rxCmp = (engines p r b').rxCmp ∧
        (engines p r b).rxDetEn = (engines p r b').rxDetEn ∧
        (engines p r b).rxSampEn = (engines p r b').rxSampEn ∧
        (engines p r b).rxState = (engines p r b').rxState ∧
        (engines p r b).rxBits = (engines p r b').rxBits ∧
        (engines p r b).rxAcc = (engines p r b').rxAcc ∧
        (engines p r b).rxq = (engines p r b').rxq))

/-! ### Clock configuration -/

/-- R130 (tie rule of spec decision D6): `ticks_per_bit` is the exact quotient rounded to the nearest integer, halves up. -/
def Obligations.TicksRoundToNearestHalfUp : Prop :=
  ∀ (p : Params) (baud t : Nat), 1 ≤ p.prescaler → 1 ≤ baud →
    (ticksPerBit p baud = t ↔
      2 * p.prescaler * baud * t ≤ 2 * p.fCpu + p.prescaler * baud ∧
      2 * p.fCpu + p.prescaler * baud < 2 * p.prescaler * baud * (t + 1))

/-- R131, R133 for R8's defaults: the legal bauds are `31 … 1,333,333`, and baud 9600 gives `top = 207`. -/
def Obligations.DefaultLegalBauds : Prop :=
  (∀ baud : Nat, legalBaud Params.default baud = true ↔ 31 ≤ baud ∧ baud ≤ 1333333) ∧
  ticksPerBit Params.default 9600 - 1 = 207

/-! ### The FIFOs -/

/-- R76, R81: a push appends to the bytes held, or finds the FIFO full and changes nothing. -/
def Obligations.PushAppends : Prop :=
  ∀ (n : Nat) (q : Fifo) (v : Byte), legalCapacity n = true → q.fits n = true →
    (q.count n = n - 1 → q.push n v = (q, false)) ∧
    (q.count n ≠ n - 1 →
      (q.push n v).2 = true ∧ (q.push n v).1.contents n = q.contents n ++ [v])

/-- R78, R79, R81: a pop takes the oldest of the bytes held, or finds none and changes nothing. -/
def Obligations.PopTakesTheOldest : Prop :=
  ∀ (n : Nat) (q : Fifo), legalCapacity n = true → q.fits n = true →
    (q.pop n = none ↔ q.contents n = []) ∧
    (∀ v q', q.pop n = some (v, q') → q.contents n = v :: q'.contents n)

/-- R73: a FIFO of N slots holds at most N − 1 bytes; it is empty iff `head_in = head_out` and full iff
`(head_in + 1) mod N = head_out`, where the bytes held are those R81 has it give back. -/
def Obligations.CapacityIsOneLessThanTheSlots : Prop :=
  ∀ (n : Nat) (q : Fifo), legalCapacity n = true → q.fits n = true →
    (q.contents n).length ≤ n - 1 ∧
    (q.headIn = q.headOut ↔ (q.contents n).length = 0) ∧
    ((q.headIn + 1) % n = q.headOut ↔ (q.contents n).length = n - 1) ∧
    q.count n = (q.contents n).length

/-- R228: N − 1 pushes into an empty FIFO are all accepted, and the next one is refused. -/
def Obligations.CapacityBoundary : Prop :=
  ∀ (n : Nat) (q : Fifo) (vs : List Byte) (v : Byte), legalCapacity n = true → q.fits n = true →
    q.empty = true → vs.length = n - 1 →
    (q.pushAll n vs).2 = List.replicate (n - 1) true ∧ (q.pushAll n vs).1.contents n = vs ∧
    (q.pushAll n vs).1.push n v = ((q.pushAll n vs).1, false)

/-! ### The whole machine -/

/-- R60–R67 hold right after reset, for every legal parameter (R68), and in `State.reset`. -/
def Obligations.ResetMeetsInvariant : Prop :=
  (∀ p : Params, legalParams p = true → (State.powerOn p).Inv) ∧ State.reset.Inv

/-- R60–R67: every step keeps the invariants, from every state that meets them, whatever the host and the line do. -/
def Obligations.StepKeepsInvariant : Prop :=
  ∀ s t : State, s.Inv → step s = .next t → t.Inv

/-- R87, R275, R300: the block never halts: from every state that meets the invariants a step answers a next state. -/
def Obligations.BlockNeverStops : Prop :=
  ∀ s : State, s.Inv → ∃ t, step s = .next t

/-- R31: no operation changes the parameters (which the model carries in its state, log entry 2, as it does the pin's
number `pad`, log entry 5); R67: the output enable
is `configured`, in every next state of a state in which it was. -/
def Obligations.StepKeepsParameters : Prop :=
  ∀ s t : State, step s = .next t →
    t.params = s.params ∧ t.pad = s.pad ∧ (s.blk.txOe = s.blk.configured → t.blk.txOe = t.blk.configured)

/-- R34, R35, R134: only `INIT` and reset write `top` and `configured`. -/
def Obligations.OnlyInitConfigures : Prop :=
  ∀ s t : State, step s = .next t → s.ports.1 = true →
    (∀ c baud, s.ports.2 = some c → decode c ≠ .instr (.init baud)) →
    t.blk.configured = s.blk.configured ∧ t.blk.top = s.blk.top ∧ t.blk.txOe = s.blk.txOe ∧
      t.blk.rxPu = s.blk.rxPu

/-! ### Timing, over runs of cycles without commands -/

/-- R137: the counter period is `T = P × PRESCALER` cycles. After every number of cycles the timer has moved on by
exactly that many places of the T there are; it stands where it stood after the multiples of T and at no other time; and
each value `0 … top` of `cnt` is entered exactly once in a run of T cycles. -/
def Obligations.CounterPeriod : Prop :=
  ∀ (p : Params) (b : Block) (rs : List Bool) (T : Nat),
    b.Inv p → b.configured = true → T = (b.top + 1) * p.prescaler →
    (quietRun p b rs).cnt * p.prescaler + (quietRun p b rs).prescCnt =
      (b.cnt * p.prescaler + b.prescCnt + rs.length) % T ∧
    ((quietRun p b rs).cnt = b.cnt ∧ (quietRun p b rs).prescCnt = b.prescCnt ↔ T ∣ rs.length) ∧
    (rs.length = T → ∀ v ≤ b.top, ∃! k, k < T ∧
      (quietRun p b (rs.take (k + 1))).cnt = v ∧ (quietRun p b (rs.take (k + 1))).prescCnt = 0)

/-- R138: after an accepted `INIT` the first timer tick comes `PRESCALER` cycles later, and `cnt` first equals `top`
`PRESCALER × top` cycles later. -/
def Obligations.FirstTicksAfterInit : Prop :=
  ∀ (p : Params) (baud top : Nat) (b : Block) (rs : List Bool),
    legalParams p = true → legalBaud p baud = true → top = ticksPerBit p baud - 1 →
    (rs.length < p.prescaler → (quietRun p (initBlock p baud b) rs).cnt = 0) ∧
    (rs.length = p.prescaler → (quietRun p (initBlock p baud b) rs).cnt = 1) ∧
    (rs.length < p.prescaler * top → (quietRun p (initBlock p baud b) rs).cnt < top) ∧
    (rs.length = p.prescaler * top → (quietRun p (initBlock p baud b) rs).cnt = top)

/-- R143: the first sampler firing after a detection comes `(PRESCALER − p) + (H − 1) × PRESCALER` cycles after it;
`b` is the record at the end of the detection's cycle, with `presc_cnt = p`. -/
def Obligations.FirstSampleDelay : Prop :=
  ∀ (p : Params) (b : Block) (rs : List Bool) (delay : Nat),
    b.Inv p → b.configured = true → b.rxSampEn = true →
    b.rxCmp = (b.cnt + (b.top + 1) / 2) % (b.top + 1) →
    delay = (p.prescaler - b.prescCnt) + ((b.top + 1) / 2 - 1) * p.prescaler →
    (rs.length + 1 < delay → rxFire p (quietRun p b rs) = false) ∧
    (rs.length + 1 = delay → rxFire p (quietRun p b rs) = true)

/-- R166: the frame's waveform. `b` is the record at the end of the cycle of the start tick, `T` the bit period in
cycles; the start bit holds for T cycles, then bits 7 … 0 of the byte for T cycles each, then the stop bit. -/
def Obligations.FrameWaveform : Prop :=
  ∀ (p : Params) (b : Block) (rs : List Bool) (T : Nat),
    b.Inv p → b.configured = true → b.txState = .shiftingData → b.txBits = 8#4 → b.txOut = false →
    b.cnt = b.top → b.prescCnt = 0 → T = (b.top + 1) * p.prescaler →
    (rs.length < T → (quietRun p b rs).txOut = false) ∧
    (∀ i < 8, T * (i + 1) ≤ rs.length → rs.length < T * (i + 2) →
      (quietRun p b rs).txOut = b.txSr.getLsbD (7 - i)) ∧
    (9 * T ≤ rs.length → rs.length < 10 * T → (quietRun p b rs).txOut = true)

/-- R233: with nothing more queued, busy holds up to the cycle before the stop-bit tick and not from it on. -/
def Obligations.BusyUntilTheStopBit : Prop :=
  ∀ (p : Params) (b : Block) (rs : List Bool) (T : Nat),
    b.Inv p → b.configured = true → b.txState = .shiftingData → b.txBits = 8#4 → b.txq.empty = true →
    b.cnt = b.top → b.prescCnt = 0 → T = (b.top + 1) * p.prescaler →
    (rs.length < 9 * T → busy (quietRun p b rs) = true) ∧
    (9 * T ≤ rs.length → busy (quietRun p b rs) = false)

/-- R201: the receiver cannot get stuck in a frame: whatever the line does, the detector is armed again within ten bit
periods. -/
def Obligations.ReceiverAlwaysRearms : Prop :=
  ∀ (p : Params) (b : Block) (rs : List Bool),
    b.Inv p → b.configured = true → rs.length = 10 * ((b.top + 1) * p.prescaler) →
    ∃ k ≤ rs.length, (quietRun p b (rs.take k)).rxDetEn = true

/-- R234: on a configured block, PUTBLOCKING ends within `10 × P × PRESCALER` cycles; before `INIT` it ends at once. No
reset falls inside the loop, which is the model's choice (log entry 11). -/
def Obligations.PutBlockingEnds : Prop :=
  ∀ (s : State) (data : Byte) (ops : List HostOp),
    s.Inv → s.host = .putBlocking data :: ops →
    (s.blk.configured = true →
      ∃ k t, k ≤ 10 * ((s.blk.top + 1) * s.params.prescaler) ∧ core.run k s = .next t ∧ t.host = ops) ∧
    (s.blk.configured = false →
      ∃ t, step s = .next t ∧ t.host = ops ∧ t.rsp = 0x20000000#32)

/-- R313: the round trip, for every byte 0 … 255. `a` is a sender's record at the end of the cycle of a start tick, `b`
a receiver's at the end of the same cycle, armed and having last seen mark, both of one clock configuration; B samples
in each cycle the level A drove in the one before (R312). Nine bit periods later `rxq` holds the byte. -/
def Obligations.RoundTrip : Prop :=
  ∀ (p p' : Params) (a b : Block) (rs : List Bool) (T : Nat),
    a.Inv p → b.Inv p' → p'.prescaler = p.prescaler → b.top = a.top →
    a.configured = true → a.txState = .shiftingData → a.txBits = 8#4 → a.txOut = false →
    a.cnt = a.top → a.prescCnt = 0 → T = (a.top + 1) * p.prescaler → rs.length = 9 * T →
    b.configured = true → b.rxDetEn = true → b.rxPrev = true → b.rxq.empty = true → legalCapacity p'.rxFifoN = true →
    ((quietRun p' b ((List.range (9 * T)).map fun k => (quietRun p a (rs.take k)).txOut)).rxq.contents
      p'.rxFifoN) = [a.txSr]
end

