-- ==== Sys2Proof/Laws/Memory.lean ====
section
/-! SUPPORT. The laws of the storage arrays: a read after a write, and that every memory operation keeps the
canonical form. -/

namespace Sys2Proof.Machine

/-- What the canonical form says. -/
theorem Memory.wf_iff (m : Memory) :
    m.wf = true ↔ m.Pairwise (fun x y => x.1 < y.1) ∧ ∀ c ∈ m, c.2 ≠ Memory.unlisted := by
  simp only [Memory.wf, decide_eq_true_eq]

/-- What it says that every listed slot exists. -/
theorem Memory.within_iff (n : Nat) (m : Memory) : m.within n = true ↔ ∀ c ∈ m, c.1 < n := by
  simp only [Memory.within, decide_eq_true_eq]

@[simp] theorem Memory.read_nil (i : Nat) : Memory.read [] i = 0#8 := rfl

theorem Memory.read_cell_append (i : Nat) (v : Byte) (m : Memory) (j : Nat)
    (h : ∀ c ∈ m, i < c.1) : Memory.read (Memory.cell i v ++ m) j = if j = i then v else Memory.read m j := by
  have absent : Memory.read m i = 0#8 := by
    induction m with
    | nil => rfl
    | cons c m ih =>
      have := h c (by simp)
      simp [Memory.read, show c.1 ≠ i by omega]
      exact ih fun d hd => h d (by simp [hd])
  unfold Memory.cell
  split <;> rename_i hv
  · by_cases hj : j = i
    · subst hj; simp [absent, hv, Memory.unlisted]
    · simp [hj]
  · by_cases hj : j = i
    · subst hj; simp [Memory.read]
    · simp [Memory.read, hj, Ne.symm hj]

/-- A slot written reads as the byte written, every other slot as before. -/
theorem Memory.read_write (m : Memory) (i : Nat) (v : Byte) (j : Nat) (h : m.wf = true) :
    (m.write i v).read j = if j = i then v else m.read j := by
  rw [Memory.wf_iff] at h
  induction m with
  | nil =>
    have := Memory.read_cell_append i v [] j (by simp)
    simpa [Memory.write] using this
  | cons c m ih =>
    obtain ⟨k, w⟩ := c
    obtain ⟨hp, hz⟩ := h
    simp only [List.pairwise_cons] at hp
    simp only [Memory.write]
    by_cases h1 : i < k
    · rw [if_pos h1]
      refine Memory.read_cell_append i v _ j fun c hc => ?_
      rcases List.mem_cons.mp hc with rfl | hc
      · exact h1
      · have := hp.1 c hc; omega
    rw [if_neg h1]
    by_cases h2 : i = k
    · subst h2
      rw [if_pos rfl, Memory.read_cell_append i v m j hp.1]
      by_cases hj : j = i
      · simp [hj]
      · simp [Memory.read, hj, Ne.symm hj]
    · rw [if_neg h2]
      simp only [Memory.read]
      rw [ih ⟨hp.2, fun c hc => hz c (by simp [hc])⟩]
      by_cases hk : k = j
      · subst hk; simp [Ne.symm h2]
      · simp [hk]

theorem Memory.mem_cell {i : Nat} {v : Byte} {c : Host.Cell} (h : c ∈ Memory.cell i v) :
    c.1 = i ∧ c.2 ≠ Memory.unlisted := by
  unfold Memory.cell at h
  split at h
  · simp at h
  · rename_i hv; simp at h; subst h; exact ⟨rfl, hv⟩

/-- Every cell after a write is the written one or was there before. -/
theorem Memory.mem_write {m : Memory} {i : Nat} {v : Byte} {c : Host.Cell} (h : c ∈ m.write i v) :
    c ∈ Memory.cell i v ∨ c ∈ m := by
  induction m with
  | nil => exact .inl h
  | cons d m ih =>
    obtain ⟨k, w⟩ := d
    simp only [Memory.write] at h
    split_ifs at h
    · simp at h ⊢; tauto
    · simp at h ⊢; tauto
    · rcases List.mem_cons.mp h with rfl | h
      · simp
      · rcases ih h with h | h
        · exact .inl h
        · exact .inr (by simp [h])

/-- Whatever the memory, a slot not written reads as before. -/
theorem Memory.read_write_ne (m : Memory) {i a : Nat} (v : Byte) (h : a ≠ i) :
    (m.write i v).read a = m.read a := by
  induction m with
  | nil =>
    simp only [Memory.write, Memory.cell]
    split <;> simp [Memory.read, Ne.symm h, Memory.unlisted]
  | cons c m ih =>
    obtain ⟨k, w⟩ := c
    simp only [Memory.write]
    split_ifs with h1 h2
    · unfold Memory.cell; split <;> simp [Memory.read, Ne.symm h]
    · subst h2; unfold Memory.cell; split <;> simp [Memory.read, Ne.symm h]
    · simp [Memory.read, ih]

/-- A write keeps the canonical form. -/
theorem Memory.write_wf (m : Memory) (i : Nat) (v : Byte) (h : m.wf = true) : (m.write i v).wf = true := by
  rw [Memory.wf_iff] at h ⊢
  refine ⟨?_, ?_⟩
  · induction m with
    | nil => simp [Memory.write, Memory.cell]; split <;> simp
    | cons d m ih =>
      obtain ⟨k, w⟩ := d
      obtain ⟨hp, hz⟩ := h
      have hp' := List.pairwise_cons.mp hp
      simp only [Memory.write]
      have cellPairwise : (Memory.cell i v).Pairwise (fun x y => x.1 < y.1) := by
        unfold Memory.cell; split <;> simp
      split_ifs with h1 h2
      · refine List.pairwise_append.mpr ⟨cellPairwise, hp, fun a ha b hb => ?_⟩
        have ha := (Memory.mem_cell ha).1
        rcases List.mem_cons.mp hb with rfl | hb
        · simpa [ha] using h1
        · have := hp'.1 b hb; simp at this; omega
      · refine List.pairwise_append.mpr ⟨cellPairwise, hp'.2, fun a ha b hb => ?_⟩
        have ha := (Memory.mem_cell ha).1
        have := hp'.1 b hb; simp at this; omega
      · refine List.pairwise_cons.mpr ⟨fun b hb => ?_, ih ⟨hp'.2, fun c hc => hz c (by simp [hc])⟩⟩
        rcases Memory.mem_write hb with hb | hb
        · have := (Memory.mem_cell hb).1; simp; omega
        · exact hp'.1 b hb
  · intro c hc
    rcases Memory.mem_write hc with hc | hc
    · exact (Memory.mem_cell hc).2
    · exact h.2 c hc

/-- A write to one of `0 … N−1` keeps every slot within them. -/
theorem Memory.write_within {n : Nat} (m : Memory) (i : Nat) (v : Byte) (h : m.within n = true)
    (hi : i < n) : (m.write i v).within n = true := by
  rw [Memory.within_iff] at h ⊢
  intro c hc
  rcases Memory.mem_write hc with hc | hc
  · have := (Memory.mem_cell hc).1; omega
  · exact h c hc

/-- The emptied storage is canonical. -/
theorem Memory.nil_wf : Memory.wf [] = true := rfl

end Sys2Proof.Machine
end

