-- ==== Sys2Proof/Laws/Fifo.lean ====
section
/-! SUPPORT. What push and pop can do (20_memory.md R76, R78), said once, and that both keep a FIFO's shape. -/

namespace Sys2Proof.Machine

/-- What a FIFO's shape says (R56). -/
theorem Fifo.fits_iff (n : Nat) (q : Fifo) :
    q.fits n = true ↔
      q.storage.wf = true ∧ q.storage.within n = true ∧ q.headIn < n ∧ q.headOut < n := by
  simp [Fifo.fits, and_assoc]

/-- What the record's shape says (R30). -/
theorem Block.fits_iff (p : Params) (b : Block) :
    b.fits p = true ↔
      (b.top < 2 ^ p.timerWidth ∧ b.prescCnt < p.prescaler ∧ b.cnt < 2 ^ p.timerWidth ∧
        b.rxCmp < 2 ^ p.timerWidth) ∧ b.txq.fits p.txFifoN = true ∧ b.rxq.fits p.rxFifoN = true := by
  simp [Block.fits, and_assoc]

/-- A push either finds the FIFO full and changes nothing, or writes one slot and moves `head_in`. -/
theorem Fifo.push_cases (n : Nat) (q : Fifo) (v : Byte) :
    (q.full n = true ∧ q.push n v = (q, false)) ∨
    (q.full n = false ∧
      q.push n v = ({ q with storage := q.storage.write q.headIn v, headIn := (q.headIn + 1) % n }, true)) := by
  unfold Fifo.push
  cases q.full n <;> simp

/-- A pop either finds the FIFO empty, or reads one slot and moves `head_out`. -/
theorem Fifo.pop_cases (n : Nat) (q : Fifo) :
    (q.empty = true ∧ q.pop n = none) ∨
    (q.empty = false ∧
      q.pop n = some (q.storage.read q.headOut, { q with headOut := (q.headOut + 1) % n })) := by
  unfold Fifo.pop
  cases q.empty <;> simp

/-- A push leaves the consumer's index alone (R76, R89). -/
@[simp] theorem Fifo.push_headOut (n : Nat) (q : Fifo) (v : Byte) : (q.push n v).1.headOut = q.headOut := by
  rcases Fifo.push_cases n q v with ⟨_, h⟩ | ⟨_, h⟩ <;> simp [h]

/-- A pop leaves the storage and the producer's index alone (R78, R80, R89). -/
theorem Fifo.pop_frame {n : Nat} {q q' : Fifo} {v : Byte} (h : q.pop n = some (v, q')) :
    q'.storage = q.storage ∧ q'.headIn = q.headIn := by
  rcases Fifo.pop_cases n q with ⟨_, h'⟩ | ⟨_, h'⟩ <;> rw [h'] at h <;> simp at h
  obtain ⟨-, rfl⟩ := h
  simp

/-- A push answers whether the FIFO was not full (R76). -/
@[simp] theorem Fifo.push_ok (n : Nat) (q : Fifo) (v : Byte) : (q.push n v).2 = !q.full n := by
  rcases Fifo.push_cases n q v with ⟨h', h⟩ | ⟨h', h⟩ <;> simp [h, h']

/-- A push keeps the FIFO's shape. -/
theorem Fifo.push_fits {n : Nat} {q : Fifo} (v : Byte) (h : q.fits n = true) :
    (q.push n v).1.fits n = true := by
  rw [Fifo.fits_iff] at h ⊢
  obtain ⟨hw, hi, hin, hout⟩ := h
  rcases Fifo.push_cases n q v with ⟨_, h⟩ | ⟨_, h⟩ <;> rw [h]
  · exact ⟨hw, hi, hin, hout⟩
  · exact ⟨Memory.write_wf _ _ _ hw, Memory.write_within _ _ _ hi hin, Nat.mod_lt _ (by omega), hout⟩

/-- A pop keeps the FIFO's shape. -/
theorem Fifo.pop_fits {n : Nat} {q q' : Fifo} {v : Byte} (h : q.fits n = true) (hp : q.pop n = some (v, q')) :
    q'.fits n = true := by
  rw [Fifo.fits_iff] at h ⊢
  obtain ⟨hw, hi, hin, hout⟩ := h
  rcases Fifo.pop_cases n q with ⟨_, h⟩ | ⟨_, h⟩ <;> rw [h] at hp <;> simp at hp
  obtain ⟨-, rfl⟩ := hp
  exact ⟨hw, hi, hin, Nat.mod_lt _ (by omega)⟩

/-- An emptied FIFO has the shape of every capacity. -/
theorem Fifo.zeroed_fits {n : Nat} (h : 0 < n) : Fifo.zeroed.fits n = true := by
  rw [Fifo.fits_iff]
  exact ⟨Memory.nil_wf, rfl, h, h⟩

/-- After a push that is accepted the FIFO is not empty, if it has two slots or more. -/
theorem Fifo.push_not_empty {n : Nat} {q : Fifo} (v : Byte) (h : q.full n = false) :
    (q.push n v).1.empty = false := by
  rcases Fifo.push_cases n q v with ⟨h', _⟩ | ⟨_, h'⟩
  · simp [h] at h'
  · rw [h']; simpa [Fifo.full, Fifo.empty] using h

end Sys2Proof.Machine
end

