-- ==== Sys2Proof/Laws/Operands.lean ====
section
/-! SUPPORT. The fields of a response word, and what a legal capacity is. -/

namespace Sys2Proof.Machine

/-- The bits of a response word, field by field from the low end (R110). -/
theorem respond_getLsbD (st : Status) (f : Bool) (d : Byte) (i : Nat) :
    (respond st f d).getLsbD i =
      if i < 8 then d.getLsbD i
      else if i = 8 then f
      else if i < 28 then false
      else (statusCode st).getLsbD (i - 28) := by
  show BitVec.getLsbD (w := 4 + 19 + 1 + 8) (statusCode st ++ 0#19 ++ BitVec.ofBool f ++ d) i = _
  rw [BitVec.getLsbD_append, BitVec.getLsbD_append, BitVec.getLsbD_append]
  by_cases h1 : i < 8
  · simp [h1]
  · by_cases h2 : i = 8
    · subst h2; simp
    · by_cases h3 : i < 28
      · have : ¬ i - 8 < 1 := by omega
        have : i - 8 - 1 < 19 := by omega
        simp [*]
      · have : ¬ i - 8 < 1 := by omega
        have : ¬ i - 8 - 1 < 19 := by omega
        simp [*, show i - 8 - 1 - 19 = i - 28 by omega]

@[simp] theorem rspStatus_respond (st : Status) (f : Bool) (d : Byte) :
    rspStatus (respond st f d) = statusCode st := by
  refine BitVec.eq_of_getLsbD_eq fun i hi => ?_
  have h : ¬ 28 + i < 8 ∧ ¬ 28 + i = 8 ∧ ¬ 28 + i < 28 := by omega
  simp [rspStatus, respond_getLsbD, h, hi]

@[simp] theorem rspFlag_respond (st : Status) (f : Bool) (d : Byte) : rspFlag (respond st f d) = f := by
  rw [rspFlag, respond_getLsbD]
  simp

@[simp] theorem rspData_respond (st : Status) (f : Bool) (d : Byte) : rspData (respond st f d) = d := by
  refine BitVec.eq_of_getLsbD_eq fun i hi => ?_
  simp [rspData, respond_getLsbD, hi]

/-- Two statuses with one code are one status (R110). -/
theorem statusCode_injective : Function.Injective statusCode := by
  intro a b h
  cases a <;> cases b <;> first | rfl | exact absurd h (by decide)

/-- R71: a legal capacity is a power of two with exponent 1 or more. -/
theorem legalCapacity_iff (n : Nat) : legalCapacity n = true ↔ ∃ k, 1 ≤ k ∧ n = 2 ^ k := by
  simp only [legalCapacity, decide_eq_true_eq]
  constructor
  · rintro ⟨h2, h⟩
    refine ⟨Nat.log2 n, ?_, h.symm⟩
    by_contra hk
    have : Nat.log2 n = 0 := by omega
    rw [this] at h; omega
  · rintro ⟨k, hk, rfl⟩
    refine ⟨?_, by rw [Nat.log2_two_pow]⟩
    calc 2 = 2 ^ 1 := rfl
      _ ≤ 2 ^ k := Nat.pow_le_pow_right (by omega) hk

/-- The parts of `legalParams` (R8). -/
theorem legalParams_iff (p : Params) :
    legalParams p = true ↔
      (1 ≤ p.fCpu ∧ 1 ≤ p.prescaler ∧ 2 ≤ p.timerWidth) ∧
        legalCapacity p.txFifoN = true ∧ legalCapacity p.rxFifoN = true := by
  simp [legalParams, and_assoc]

end Sys2Proof.Machine
end

