-- ==== Sys2Proof/Laws/State.lean ====
section
/-! SUPPORT. What each update of the state leaves in each field, so that no later proof unfolds a record update. -/

namespace Sys2Proof.Machine

section Answer
variable (s : State) (b : Block) (st : Status) (f : Bool) (d : Byte)
@[simp] theorem State.answer_params : (s.answer b st f d).params = s.params := rfl
@[simp] theorem State.answer_blk : (s.answer b st f d).blk = b := rfl
@[simp] theorem State.answer_rspValid : (s.answer b st f d).rspValid = true := rfl
@[simp] theorem State.answer_rsp : (s.answer b st f d).rsp = respond st f d := rfl
@[simp] theorem State.answer_host : (s.answer b st f d).host = s.host := rfl
@[simp] theorem State.answer_line : (s.answer b st f d).line = s.line := rfl
@[simp] theorem State.answer_pad : (s.answer b st f d).pad = s.pad := rfl
@[simp] theorem State.answer_cycle : (s.answer b st f d).cycle = s.cycle := rfl
end Answer

section Silent
variable (s : State)
@[simp] theorem State.silent_params : s.silent.params = s.params := rfl
@[simp] theorem State.silent_blk : s.silent.blk = s.blk := rfl
@[simp] theorem State.silent_rspValid : s.silent.rspValid = false := rfl
@[simp] theorem State.silent_rsp : s.silent.rsp = 0#32 := rfl
@[simp] theorem State.silent_host : s.silent.host = s.host := rfl
@[simp] theorem State.silent_line : s.silent.line = s.line := rfl
@[simp] theorem State.silent_pad : s.silent.pad = s.pad := rfl
@[simp] theorem State.silent_cycle : s.silent.cycle = s.cycle := rfl
@[simp] theorem State.illegal_params : s.illegal.params = s.params := rfl
@[simp] theorem State.illegal_blk : s.illegal.blk = s.blk := rfl
@[simp] theorem State.illegal_rspValid : s.illegal.rspValid = true := rfl
@[simp] theorem State.illegal_rsp : s.illegal.rsp = respond .errIllegal false 0#8 := rfl
@[simp] theorem State.illegal_host : s.illegal.host = s.host := rfl
@[simp] theorem State.illegal_line : s.illegal.line = s.line := rfl
@[simp] theorem State.illegal_pad : s.illegal.pad = s.pad := rfl
@[simp] theorem State.illegal_cycle : s.illegal.cycle = s.cycle := rfl
end Silent

section Cycle
variable (s : State) (r : Bool)
@[simp] theorem State.advance_params : s.advance.params = s.params := rfl
@[simp] theorem State.advance_blk : s.advance.blk = s.blk := rfl
@[simp] theorem State.advance_rspValid : s.advance.rspValid = s.rspValid := rfl
@[simp] theorem State.advance_rsp : s.advance.rsp = s.rsp := rfl
@[simp] theorem State.advance_host : s.advance.host = advanceHost s.rsp s.host := rfl
@[simp] theorem State.advance_line : s.advance.line = s.line.tail := rfl
@[simp] theorem State.advance_pad : s.advance.pad = s.pad := rfl
@[simp] theorem State.advance_cycle : s.advance.cycle = s.cycle + 1 := rfl
@[simp] theorem State.endCycle_params : (s.endCycle r).params = s.params := rfl
@[simp] theorem State.endCycle_blk : (s.endCycle r).blk = recordInput r s.blk := rfl
@[simp] theorem State.endCycle_rspValid : (s.endCycle r).rspValid = s.rspValid := rfl
@[simp] theorem State.endCycle_rsp : (s.endCycle r).rsp = s.rsp := rfl
@[simp] theorem State.endCycle_host : (s.endCycle r).host = advanceHost s.rsp s.host := rfl
@[simp] theorem State.endCycle_line : (s.endCycle r).line = s.line.tail := rfl
@[simp] theorem State.endCycle_pad : (s.endCycle r).pad = s.pad := rfl
@[simp] theorem State.endCycle_cycle : (s.endCycle r).cycle = s.cycle + 1 := rfl
@[simp] theorem State.runEngines_params : (s.runEngines r).params = s.params := rfl
@[simp] theorem State.runEngines_blk : (s.runEngines r).blk = engines s.params r s.blk := rfl
@[simp] theorem State.runEngines_rspValid : (s.runEngines r).rspValid = s.rspValid := rfl
@[simp] theorem State.runEngines_rsp : (s.runEngines r).rsp = s.rsp := rfl
@[simp] theorem State.runEngines_host : (s.runEngines r).host = s.host := rfl
@[simp] theorem State.runEngines_line : (s.runEngines r).line = s.line := rfl
@[simp] theorem State.runEngines_pad : (s.runEngines r).pad = s.pad := rfl
@[simp] theorem State.runEngines_cycle : (s.runEngines r).cycle = s.cycle := rfl
@[simp] theorem State.resetCycle_params : s.resetCycle.params = s.params := rfl
@[simp] theorem State.resetCycle_blk : s.resetCycle.blk = Block.powerOn := rfl
@[simp] theorem State.resetCycle_rspValid : s.resetCycle.rspValid = false := rfl
@[simp] theorem State.resetCycle_rsp : s.resetCycle.rsp = 0#32 := rfl
@[simp] theorem State.resetCycle_line : s.resetCycle.line = s.line.tail := rfl
@[simp] theorem State.resetCycle_pad : s.resetCycle.pad = s.pad := rfl
@[simp] theorem State.resetCycle_cycle : s.resetCycle.cycle = s.cycle + 1 := rfl
end Cycle

section PresentNext
variable (s : State) (c : Word)
@[simp] theorem presentNext_params : (presentNext s c).params = s.params := rfl
@[simp] theorem presentNext_blk : (presentNext s c).blk = s.blk := rfl
@[simp] theorem presentNext_line : (presentNext s c).line = s.line := rfl
@[simp] theorem presentNext_pad : (presentNext s c).pad = s.pad := rfl
@[simp] theorem presentNext_cycle : (presentNext s c).cycle = s.cycle := rfl
@[simp] theorem presentNext_ports : (presentNext s c).ports = (true, some c) := rfl
@[simp] theorem presentNext_sample : (presentNext s c).sample = s.sample := rfl
end PresentNext

section Inputs
variable (s : State) (l : Level) (n : Nat)
@[simp] theorem State.withLine_blk : (s.withLine l).blk = s.blk := rfl
@[simp] theorem State.withLine_params : (s.withLine l).params = s.params := rfl
@[simp] theorem State.withLine_ports : (s.withLine l).ports = s.ports := rfl
@[simp] theorem State.withLine_sample :
    (s.withLine l).sample = readLevel (rxPullupEn s.blk) (Config.undrivenLevel s.pad s.cycle) l := rfl
@[simp] theorem State.withPad_blk : (s.withPad n).blk = s.blk := rfl
@[simp] theorem State.withPad_params : (s.withPad n).params = s.params := rfl
@[simp] theorem State.withPad_ports : (s.withPad n).ports = s.ports := rfl
@[simp] theorem State.withPad_line : (s.withPad n).line = s.line := rfl
@[simp] theorem State.withPad_pad : (s.withPad n).pad = n := rfl
@[simp] theorem State.withPad_sample :
    (s.withPad n).sample = readLevel (rxPullupEn s.blk) (Config.undrivenLevel n s.cycle) s.lineLevel := rfl
end Inputs

section Block
variable (b : Block) (r : Bool) (q : Fifo) (ok : Bool)
@[simp] theorem recordInput_rxPrev : (recordInput r b).rxPrev = r := rfl
@[simp] theorem recordInput_configured : (recordInput r b).configured = b.configured := rfl
@[simp] theorem recordInput_top : (recordInput r b).top = b.top := rfl
@[simp] theorem recordInput_prescCnt : (recordInput r b).prescCnt = b.prescCnt := rfl
@[simp] theorem recordInput_cnt : (recordInput r b).cnt = b.cnt := rfl
@[simp] theorem recordInput_rxCmp : (recordInput r b).rxCmp = b.rxCmp := rfl
@[simp] theorem recordInput_txTickEn : (recordInput r b).txTickEn = b.txTickEn := rfl
@[simp] theorem recordInput_rxDetEn : (recordInput r b).rxDetEn = b.rxDetEn := rfl
@[simp] theorem recordInput_rxSampEn : (recordInput r b).rxSampEn = b.rxSampEn := rfl
@[simp] theorem recordInput_txState : (recordInput r b).txState = b.txState := rfl
@[simp] theorem recordInput_txBits : (recordInput r b).txBits = b.txBits := rfl
@[simp] theorem recordInput_txSr : (recordInput r b).txSr = b.txSr := rfl
@[simp] theorem recordInput_rxState : (recordInput r b).rxState = b.rxState := rfl
@[simp] theorem recordInput_rxBits : (recordInput r b).rxBits = b.rxBits := rfl
@[simp] theorem recordInput_rxAcc : (recordInput r b).rxAcc = b.rxAcc := rfl
@[simp] theorem recordInput_txOut : (recordInput r b).txOut = b.txOut := rfl
@[simp] theorem recordInput_txOe : (recordInput r b).txOe = b.txOe := rfl
@[simp] theorem recordInput_rxPu : (recordInput r b).rxPu = b.rxPu := rfl
@[simp] theorem recordInput_txq : (recordInput r b).txq = b.txq := rfl
@[simp] theorem recordInput_rxq : (recordInput r b).rxq = b.rxq := rfl
@[simp] theorem putBlock_txq : (putBlock b q ok).txq = q := rfl
@[simp] theorem putBlock_txTickEn : (putBlock b q ok).txTickEn = (ok || b.txTickEn) := rfl
theorem putBlock_frame : putBlock b q ok = { b with txq := q, txTickEn := ok || b.txTickEn } := rfl
end Block

section MapNext
variable (f : State → State)
@[simp] theorem mapNext_next (s : State) : mapNext f (.next s) = .next (f s) := rfl
@[simp] theorem mapNext_fault (x : Fault) : mapNext f (.fault x) = .fault x := rfl
@[simp] theorem mapNext_refused (x : Refusal) : mapNext f (.refused x) = .refused x := rfl

/-- A next state of `mapNext` comes from a next state. -/
theorem mapNext_eq_next {o : Host.Outcome State Fault Refusal} {t : State} :
    mapNext f o = .next t ↔ ∃ u, o = .next u ∧ f u = t := by
  cases o <;> simp
end MapNext

end Sys2Proof.Machine
end

