-- ==== Sys2Proof/Laws/Commands.lean ====
section
/-! SUPPORT. What a host command can do: it always answers, in its own cycle (43_host_commands.md R220), and it
changes the record and the response port only. -/

namespace Sys2Proof.Machine

/-- `withFetchWord` presents the table's word in the coming cycle, reset released. -/
@[simp] theorem State.withFetchWord_ports (s : State) (nbits w : Nat) :
    (s.withFetchWord nbits w).ports = (true, some (tableWord nbits w)) := rfl

/-- It changes the head of the host's program only. -/
theorem State.withFetchWord_frame (s : State) (nbits w : Nat) :
    s.withFetchWord nbits w = { s with host := (s.withFetchWord nbits w).host } ∧
      (s.withFetchWord nbits w).host.tail = s.host.tail := ⟨rfl, rfl⟩

/-- The shared answer of the commands that need a configured block (R235). -/
theorem whenConfigured_cases (s t : State) :
    (s.blk.configured = true ∧ whenConfigured s t = .next t) ∨
    (s.blk.configured = false ∧ whenConfigured s t = .next (s.answer s.blk .errNoinit false 0#8)) := by
  unfold whenConfigured
  cases s.blk.configured <;> simp

/-- Every command answers a next state that is `s` with a record and a response. -/
theorem exec_answers (i : Instr) (s : State) :
    ∃ b st f d, exec i s = .next (s.answer b st f d) := by
  cases i with
  | init baud =>
    simp only [exec, execInit]
    split
    · exact ⟨_, _, _, _, rfl⟩
    · exact ⟨_, _, _, _, rfl⟩
  | tryput data =>
    simp only [exec, execTryput]
    rcases whenConfigured_cases s
      (s.answer (putBlock s.blk (s.blk.txq.push s.params.txFifoN data).1 (s.blk.txq.push s.params.txFifoN data).2)
        .ok (s.blk.txq.push s.params.txFifoN data).2 0#8) with ⟨_, h⟩ | ⟨_, h⟩ <;>
      exact ⟨_, _, _, _, h⟩
  | tryget =>
    simp only [exec, execTryget]
    split
    · rename_i v q _
      rcases whenConfigured_cases s (s.answer { s.blk with rxq := q } .ok false v) with ⟨_, h⟩ | ⟨_, h⟩ <;>
        exact ⟨_, _, _, _, h⟩
    · rcases whenConfigured_cases s (s.answer s.blk .ok false 0#8) with ⟨_, h⟩ | ⟨_, h⟩ <;>
        exact ⟨_, _, _, _, h⟩
  | isbusy =>
    simp only [exec, execIsbusy]
    rcases whenConfigured_cases s (s.answer s.blk .ok (busy s.blk) 0#8) with ⟨_, h⟩ | ⟨_, h⟩ <;>
      exact ⟨_, _, _, _, h⟩

/-- The outcomes of a step, each with what led to it. -/
theorem step_cases (s : State) :
    (legalParams s.params = false ∧ step s = .refused .illegalParameters) ∨
    (legalParams s.params = true ∧ s.blk.fits s.params = false ∧ step s = .fault .outsideStateSpace) ∨
    (legalParams s.params = true ∧ s.blk.fits s.params = true ∧ s.ports.1 = false ∧
      step s = .next s.resetCycle) ∨
    (legalParams s.params = true ∧ s.blk.fits s.params = true ∧ s.ports.1 = true ∧ step s = liveCycle s) := by
  unfold step runCycle
  cases legalParams s.params <;> cases s.blk.fits s.params <;> cases s.ports.1 <;> simp

/-- The host step always answers a next state, with the record and the response port changed only. -/
theorem hostStep_next (cmd : Option Word) (s : State) :
    ∃ u, hostStep cmd s = .next u ∧ u.params = s.params ∧ u.host = s.host ∧ u.line = s.line ∧ u.pad = s.pad ∧
      u.cycle = s.cycle := by
  unfold hostStep
  cases cmd with
  | none => exact ⟨_, rfl, rfl, rfl, rfl, rfl, rfl⟩
  | some c =>
    dsimp only
    split
    · exact ⟨_, rfl, rfl, rfl, rfl, rfl, rfl⟩
    · rename_i i _
      obtain ⟨b, st, f, d, h⟩ := exec_answers i s
      exact ⟨_, h, rfl, rfl, rfl, rfl, rfl⟩

end Sys2Proof.Machine
end

