-- ==== Sys2Proof/Laws/Engines.lean ====
section
/-! SUPPORT. What one timer step, one Tx tick, one Rx event and the engines' part of a cycle can do, said once. -/

namespace Sys2Proof.Machine

/-- The timer writes `presc_cnt` and `cnt` only (R135, R136). -/
theorem timerStep_frame (p : Params) (b : Block) :
    timerStep p b = { b with prescCnt := (timerStep p b).prescCnt, cnt := (timerStep p b).cnt } := by
  unfold timerStep; split <;> rfl

/-- The two outcomes of the timer step. -/
theorem timerStep_cases (p : Params) (b : Block) :
    (b.prescCnt + 1 = p.prescaler ∧ timerStep p b = { b with prescCnt := 0, cnt := nextCnt b }) ∨
    (b.prescCnt + 1 ≠ p.prescaler ∧ timerStep p b = { b with prescCnt := b.prescCnt + 1 }) := by
  unfold timerStep tick
  by_cases h : b.prescCnt + 1 = p.prescaler <;> simp [h]

/-- The four outcomes of a Tx tick (R161–R164). -/
theorem txStep_cases (p : Params) (b : Block) :
    (b.txState = .awaitingStart ∧ b.txq.empty = true ∧ txStep p b = txIdle b) ∨
    (b.txState = .awaitingStart ∧ b.txq.empty = false ∧
      txStep p b = txStart (b.txq.storage.read b.txq.headOut)
        { b.txq with headOut := (b.txq.headOut + 1) % p.txFifoN } b) ∨
    (b.txState = .shiftingData ∧ txStep p b = txData b) ∨
    (b.txState = .awaitingStop ∧ txStep p b = txStop b) := by
  unfold txStep
  cases h : b.txState <;> simp
  rcases Fifo.pop_cases p.txFifoN b.txq with ⟨he, hp⟩ | ⟨he, hp⟩ <;> simp [he, hp]

/-- A Tx tick writes `tx_state`, `tx_bits`, `tx_sr`, `tx_out`, `tx_tick_en` and `txq.head_out` only (R160). -/
theorem txStep_frame (p : Params) (b : Block) :
    txStep p b = { b with
      txState := (txStep p b).txState, txBits := (txStep p b).txBits, txSr := (txStep p b).txSr,
      txOut := (txStep p b).txOut, txTickEn := (txStep p b).txTickEn,
      txq := { b.txq with headOut := (txStep p b).txq.headOut } } := by
  rcases txStep_cases p b with ⟨_, _, h⟩ | ⟨_, _, h⟩ | ⟨_, h⟩ | ⟨_, h⟩ <;> rw [h] <;> rfl

/-- The three outcomes of a sampler firing (R194). -/
theorem rxStep_cases (p : Params) (r : Bool) (b : Block) :
    (b.rxState = .awaitingStart ∧ rxStep p r b = rxMidStart b) ∨
    (b.rxState = .shiftingData ∧ rxStep p r b = rxData p r b) ∨
    (b.rxState = .awaitingStop ∧ rxStep p r b = rxMidStop b) := by
  unfold rxStep
  cases b.rxState <;> simp

/-- The two outcomes of a data sample: seven shift, the eighth pushes as well (R196). -/
theorem rxData_cases (p : Params) (r : Bool) (b : Block) :
    (b.rxBits - 1#4 = 0#4 ∧ rxData p r b = { b with
      rxAcc := shiftIn b.rxAcc r, rxBits := 0#4,
      rxq := (b.rxq.push p.rxFifoN (shiftIn b.rxAcc r)).1, rxState := .awaitingStop }) ∨
    (b.rxBits - 1#4 ≠ 0#4 ∧ rxData p r b = { b with rxAcc := shiftIn b.rxAcc r, rxBits := b.rxBits - 1#4 }) := by
  unfold rxData
  by_cases h : b.rxBits - 1#4 = 0#4
  · left; exact ⟨h, by simp [h]⟩
  · right; exact ⟨h, by simp [h]⟩

/-- A sampler firing writes `rx_state`, `rx_bits`, `rx_acc`, the two Rx enables and `rxq`'s storage and `head_in`
only (R194). -/
theorem rxStep_frame (p : Params) (r : Bool) (b : Block) :
    rxStep p r b = { b with
      rxState := (rxStep p r b).rxState, rxBits := (rxStep p r b).rxBits, rxAcc := (rxStep p r b).rxAcc,
      rxSampEn := (rxStep p r b).rxSampEn, rxDetEn := (rxStep p r b).rxDetEn,
      rxq := { (rxStep p r b).rxq with headOut := b.rxq.headOut } } := by
  rcases rxStep_cases p r b with ⟨_, h⟩ | ⟨_, h⟩ | ⟨_, h⟩
  · rw [h]; rfl
  · rcases rxData_cases p r b with ⟨_, h'⟩ | ⟨_, h'⟩ <;> rw [h, h']
    have := Fifo.push_headOut p.rxFifoN b.rxq (shiftIn b.rxAcc r)
    simp only [← this]
  · rw [h]; rfl

/-- Nothing internal happens before `INIT` (R34). -/
theorem engines_unconfigured {p : Params} {b : Block} (r : Bool) (h : b.configured = false) :
    engines p r b = b := by simp [engines, h]

/-- No operation of the engines changes the configuration or the pin directions. -/
theorem engines_config (p : Params) (r : Bool) (b : Block) :
    (engines p r b).configured = b.configured ∧ (engines p r b).top = b.top ∧
      (engines p r b).txOe = b.txOe ∧ (engines p r b).rxPu = b.rxPu ∧ (engines p r b).rxPrev = b.rxPrev := by
  have ht : ∀ x, (timerStep p x).configured = x.configured ∧ (timerStep p x).top = x.top ∧
      (timerStep p x).txOe = x.txOe ∧ (timerStep p x).rxPu = x.rxPu ∧ (timerStep p x).rxPrev = x.rxPrev := by
    intro x; rw [timerStep_frame]; simp
  have hx : ∀ x, (txStep p x).configured = x.configured ∧ (txStep p x).top = x.top ∧
      (txStep p x).txOe = x.txOe ∧ (txStep p x).rxPu = x.rxPu ∧ (txStep p x).rxPrev = x.rxPrev := by
    intro x; rw [txStep_frame]; simp
  have hr : ∀ x, (rxStep p r x).configured = x.configured ∧ (rxStep p r x).top = x.top ∧
      (rxStep p r x).txOe = x.txOe ∧ (rxStep p r x).rxPu = x.rxPu ∧ (rxStep p r x).rxPrev = x.rxPrev := by
    intro x; rw [rxStep_frame]; simp
  have hd : ∀ x, (rxDetect x).configured = x.configured ∧ (rxDetect x).top = x.top ∧
      (rxDetect x).txOe = x.txOe ∧ (rxDetect x).rxPu = x.rxPu ∧ (rxDetect x).rxPrev = x.rxPrev :=
    fun _ => ⟨rfl, rfl, rfl, rfl, rfl⟩
  unfold engines configuredEngines
  split_ifs <;> simp [ht, hx, hr, hd]

end Sys2Proof.Machine
end

