-- ==== Sys2Proof/Laws/Observation.lean ====
section
/-! SUPPORT. What the observation of a run (44_cycle_and_pins.md R274) and the end of a host program (R275) say of one
step. -/

namespace Sys2Proof.Machine

/-- An input sequence given to a state reaches its coming cycle, whatever an undriven line would show. -/
@[simp] theorem State.withInputs_input (s : State) (i : CycleInput) (ins : List CycleInput) :
    (s.withInputs (i :: ins)).input = i := by
  obtain ⟨r, cmd⟩ := i
  cases r <;> rfl

/-- The coming cycle of an input sequence has the reset released. -/
@[simp] theorem State.withInputs_rstN (s : State) (ins : List CycleInput) : (s.withInputs ins).ports.1 = true := by
  cases ins <;> rfl

@[simp] theorem State.withInputs_blk (s : State) (ins : List CycleInput) : (s.withInputs ins).blk = s.blk := rfl
@[simp] theorem State.withInputs_params (s : State) (ins : List CycleInput) : (s.withInputs ins).params = s.params := rfl

theorem trace_head (n : Nat) (s : State) : ∃ later, trace n s = s :: later := by
  cases n <;> exact ⟨_, rfl⟩

@[simp] theorem observations_zero (s : State) : observations 0 s = [] := rfl

/-- An observation goes on cycle by cycle: the outputs of a cycle, then those of the cycles after it. -/
theorem observations_succ {s t : State} (n : Nat) (h : step s = .next t) :
    observations (n + 1) s = observe t :: observations n t := by
  obtain ⟨later, hl⟩ := trace_head n t
  simp [observations, trace, h, hl]

/-- Once a host program has ended, no cycle with the reset released presents a command. -/
theorem ports_of_hostEnded {s : State} (h : hostEnded s = true) (hr : s.ports.1 = true) : s.ports.2 = none := by
  unfold hostEnded at h
  unfold State.ports at hr ⊢
  cases hs : s.host with
  | nil => simp
  | cons op ops =>
    cases op with
    | cycle rstN cmd => cases rstN <;> cases cmd <;> simp_all [HostOp.drives, HostOp.presentsCommand]
    | putBlocking data => simp [hs, HostOp.presentsCommand] at h

/-- A host program that has ended stays ended. -/
theorem hostEnded_tail (ops : List HostOp) (h : ops.all (fun op => !op.presentsCommand) = true) (r : Word) :
    (advanceHost r ops).all (fun op => !op.presentsCommand) = true := by
  cases ops with
  | nil => rfl
  | cons op ops => cases op <;> simp_all [advanceHost, HostOp.presentsCommand]

end Sys2Proof.Machine
end

