-- ==== Sys2Proof/Laws/PerInstr.lean ====
section
/-! SUPPORT. The bits of a command's word, and the per-instruction family of LAWS.json: what R101 and R103 say of it. -/

namespace Sys2Proof

/-- The bits of an INIT word (R101, format B). -/
theorem encode_init_getLsbD (baud i : Nat) :
    (encode (.init baud)).getLsbD i = if i < 24 then (BitVec.ofNat 24 baud).getLsbD i else decide (i = 28) := by
  show BitVec.getLsbD (w := 4 + 4 + 24) (0x1#4 ++ 0x0#4 ++ BitVec.ofNat 24 baud) i = _
  rw [BitVec.getLsbD_append, BitVec.getLsbD_append]
  by_cases h : i < 24
  · simp [h]
  · by_cases h' : i < 32
    · interval_cases i <;> simp_all
    · have : ¬ i - 24 < 4 := by omega
      have hi : i ≠ 28 := by omega
      have hge : BitVec.getLsbD 0x1#4 (i - 24 - 4) = false :=
        BitVec.getLsbD_of_ge _ _ (by omega)
      simp only [h, this, hi, hge]
      simp

/-- The bits of a TRYPUT word (R101, format D). -/
theorem encode_tryput_getLsbD (data : Byte) (i : Nat) :
    (encode (.tryput data)).getLsbD i = if i < 8 then data.getLsbD i else decide (i = 29) := by
  show BitVec.getLsbD (w := 4 + 20 + 8) (0x2#4 ++ 0x0#20 ++ data) i = _
  rw [BitVec.getLsbD_append, BitVec.getLsbD_append]
  by_cases h : i < 8
  · simp [h]
  · by_cases h' : i < 32
    · interval_cases i <;> simp_all
    · have : ¬ i - 8 < 20 := by omega
      have hi : i ≠ 29 := by omega
      have hge : BitVec.getLsbD 0x2#4 (i - 8 - 20) = false :=
        BitVec.getLsbD_of_ge _ _ (by omega)
      simp only [h, this, hi, hge]
      simp

/-- A word matches a row when the row's mask selects exactly the row's pattern, bit by bit (R103). -/
theorem OpRow.matches_iff (row : OpRow) (c : Word) :
    row.matches c = true ↔ ∀ i < 32, (c.getLsbD i && row.mask.getLsbD i) = row.pattern.getLsbD i := by
  simp only [OpRow.matches, beq_iff_eq]
  constructor
  · intro h i _
    rw [← h, BitVec.getLsbD_and]
  · intro h
    exact BitVec.eq_of_getLsbD_eq fun i hi => by rw [BitVec.getLsbD_and]; exact h i hi

end Sys2Proof

namespace Sys2Proof.Laws.EncodingRow

/-- The word a well-formed command assembles to matches its own row of R103's table and no other. -/
def Statement (i : Instr) : Prop :=
  WellFormed i → ∀ row ∈ opTable, (row.matches (encode i) = true ↔ row.mnemonic = i.mnemonic)

/-- A word differing from a row's pattern in one bit of the row's mask does not match it. -/
theorem not_matches {row : OpRow} {c : Word} (i : Nat) (hi : i < 32)
    (h : (c.getLsbD i && row.mask.getLsbD i) ≠ row.pattern.getLsbD i) : ¬ row.matches c = true := by
  rw [OpRow.matches_iff]
  exact fun hm => h (hm i hi)

theorem init (baud : Nat) : Statement (.init baud) := by
  intro _ row hrow
  simp only [opTable, List.mem_cons, List.not_mem_nil, or_false] at hrow
  rcases hrow with rfl | rfl | rfl | rfl
  · simp only [OpRow.matches_iff, Instr.mnemonic, iff_true, encode_init_getLsbD]
    intro i hi
    interval_cases i <;> simp
  · exact iff_of_false (not_matches 28 (by omega) (by rw [encode_init_getLsbD]; simp)) (by simp [Instr.mnemonic])
  · exact iff_of_false (not_matches 29 (by omega) (by rw [encode_init_getLsbD]; simp)) (by simp [Instr.mnemonic])
  · exact iff_of_false (not_matches 28 (by omega) (by rw [encode_init_getLsbD]; simp)) (by simp [Instr.mnemonic])

theorem tryput (data : Byte) : Statement (.tryput data) := by
  intro _ row hrow
  simp only [opTable, List.mem_cons, List.not_mem_nil, or_false] at hrow
  rcases hrow with rfl | rfl | rfl | rfl
  · exact iff_of_false (not_matches 29 (by omega) (by rw [encode_tryput_getLsbD]; simp)) (by simp [Instr.mnemonic])
  · simp only [OpRow.matches_iff, Instr.mnemonic, iff_true, encode_tryput_getLsbD]
    intro i hi
    interval_cases i <;> simp
  · exact iff_of_false (not_matches 28 (by omega) (by rw [encode_tryput_getLsbD]; simp)) (by simp [Instr.mnemonic])
  · exact iff_of_false (not_matches 29 (by omega) (by rw [encode_tryput_getLsbD]; simp)) (by simp [Instr.mnemonic])

theorem tryget : Statement .tryget := fun _ => by decide

theorem isbusy : Statement .isbusy := fun _ => by decide

end Sys2Proof.Laws.EncodingRow
end

