-- ==== Sys2Proof/Tests/Slice0.lean ====
section
/-! SUPPORT. Checks of the model against the vectors of 95_test_vectors.md and the examples in the rules, the
WellFormed smoke test, and for each statement with hypotheses a witness that meets them. Expected values are the
spec's. -/

namespace Sys2Proof.Tests

open Sys2Proof.Machine

/-! ### Fixtures -/

/-- Parameter set S4 of 95_test_vectors.md. -/
def s4 : Params := ⟨16, 1, 16, 4, 4, true⟩

/-- The record `INIT 4` leaves in set S4: `top = 3`, P = 4, H = 2. -/
def ready : Block := initBlock s4 4 Block.powerOn

/-- `ready` with bytes queued for transmission. -/
def queued (q : Fifo) : Block := { ready with txq := q, txTickEn := true }

/-- A state of set S4 whose host presents `cmd` and whose line shows `l` in the coming cycle. -/
def at4 (b : Block) (cmd : Option Word) (l : Level) : State :=
  { State.powerOn s4 with blk := b, host := [.cycle true cmd], line := [l] }

/-- A state of set S4 with `rst_n = 0` in the coming cycle. -/
def held (b : Block) : State := { State.powerOn s4 with blk := b, host := [.cycle false (some 0x10000004#32)], line := [.mark] }

/-- The block in the full-FIFO vectors F3: three bytes, indices (3, 0). -/
def fullFifo : Fifo := ⟨[(0, 0x11#8), (1, 0x22#8), (2, 0x33#8)], 3, 0⟩

/-- Program P1 at the end of cycle 3: the start tick of 0xA5. -/
def sending : Block :=
  { ready with cnt := 3, txTickEn := true, txState := .shiftingData, txBits := 8#4, txSr := 0xA5#8, txOut := false,
               txq := ⟨[(0, 0xA5#8)], 1, 1⟩ }

/-- Vector V-RX-1 at the end of cycle 5: the detection. -/
def detected : Block := { ready with cnt := 1, rxCmp := 3, rxDetEn := false, rxSampEn := true, rxPrev := false }

/-- Program P2 at the end of cycle 37, Rx side: the eighth data sample of 0xA5 is due in the next cycle. -/
def lastSample : Block :=
  { ready with cnt := 1, rxCmp := 2, rxDetEn := false, rxSampEn := true, rxState := .shiftingData, rxBits := 1#4,
               rxAcc := 0x52#8 }

/-- The response and the record of an outcome that is a next state. -/
def resultOf : Host.Outcome State Fault Refusal → Option (Word × Block)
  | .next t => some (t.rsp, t.blk)
  | .fault _ => none
  | .refused _ => none

/-- The response of an outcome that is a next state. -/
def rspOf (o : Host.Outcome State Fault Refusal) : Option Word := (resultOf o).map Prod.fst

/-- The invariant from its parts as checks that can be evaluated. -/
theorem inv_of_checks {p : Params} {b : Block}
    (h : b.fits p = true ∧ b.configured = true ∧ b.rxDetEn = (!b.rxSampEn) ∧
      (b.rxDetEn = true → b.rxState = .awaitingStart) ∧
      (b.txState ≠ .awaitingStart ∨ b.txq.empty = false → b.txTickEn = true) ∧
      (b.txState = .shiftingData → 1 ≤ b.txBits.toNat ∧ b.txBits.toNat ≤ 8) ∧
      (b.rxState = .shiftingData → 1 ≤ b.rxBits.toNat ∧ b.rxBits.toNat ≤ 8) ∧
      (b.txState ≠ .shiftingData → b.txBits = 0#4) ∧ (b.rxState ≠ .shiftingData → b.rxBits = 0#4) ∧
      (b.cnt ≤ b.top ∧ b.rxCmp ≤ b.top ∧ 1 ≤ b.top) ∧ b.txOe = true ∧
      (b.txState = .awaitingStart → b.txOut = true)) : b.Inv p := by
  obtain ⟨h1, h2, h3, h4, h5, h6, h7, h8, h9, h10, h11, h12⟩ := h
  exact ⟨h1, by simp [h2], fun _ => h3, h4, h5, h6, h7, h8, h9, fun _ => h10, by rw [h11, h2], fun _ => h12⟩

/-! ### WellFormed -/

theorem test_wellFormed_largest_baud : WellFormed (.init 16777215) := by decide
theorem test_illFormed_baud_of_25_bits : ¬ WellFormed (.init 16777216) := by decide
theorem test_wellFormed_others :
    WellFormed (.tryput 0xFF#8) ∧ WellFormed .tryget ∧ WellFormed .isbusy := by decide

/-! ### Decoding: words written out bit by bit from R101's formats -/

theorem test_decode_init : decode 0b00010000000000000010010110000000#32 = .instr (.init 9600) := by decide
theorem test_decode_tryput : decode 0b00100000000000000000000010100101#32 = .instr (.tryput 0xA5#8) := by decide
theorem test_decode_tryget : decode 0b00110000000000000000000000000000#32 = .instr .tryget := by decide
theorem test_decode_isbusy : decode 0b01000000000000000000000000000000#32 = .instr .isbusy := by decide
theorem test_decode_illegal_words :
    [0x00000000#32, 0x50000000#32, 0x20000100#32, 0x30000001#32, 0x40000080#32, 0x1F000004#32].map decode =
      [.illegal .reservedOp, .illegal .reservedOp, .illegal .tryputReservedBits, .illegal .operandBits,
       .illegal .operandBits, .illegal .initReservedBits] := by decide
theorem test_encode_examples : encode (.init 9600) = 0x10002580#32 ∧ encode (.tryput 0xA5#8) = 0x200000A5#32 := by decide
theorem test_table_numbering : decodeTableWord 32 0x10002580 = some (.init 9600) ∧ decodeTableWord 32 0x50000000 = none := by
  decide

/-! ### The commands (V-CMD, R222–R232) -/

theorem test_init_31_default_top :
    (resultOf (exec (.init 31) State.reset)).map (fun x => (x.1, x.2.top)) = some (0#32, 64515) := by decide
theorem test_init_30_refused_by_baud : rspOf (exec (.init 30) State.reset) = some 0x30000000#32 := by decide
theorem test_tryput_accepted :
    (resultOf (exec (.tryput 0xA5#8) (at4 ready none .mark))).map (fun x => (x.1, x.2.txq, x.2.txTickEn)) =
      some (0x100#32, ⟨[(0, 0xA5#8)], 1, 0⟩, true) := by decide
theorem test_tryput_full_refused :
    (resultOf (exec (.tryput 0x44#8) (at4 (queued fullFifo) none .mark))).map (fun x => (x.1, x.2.txq)) =
      some (0#32, fullFifo) := by decide
theorem test_tryget_pops :
    (resultOf (exec .tryget (at4 { ready with rxq := ⟨[(0, 0xA5#8)], 1, 0⟩ } none .mark))).map
      (fun x => (x.1, x.2.rxq)) = some (0xA5#32, ⟨[(0, 0xA5#8)], 1, 1⟩) := by decide
theorem test_tryget_before_init : rspOf (exec .tryget State.reset) = some 0x20000000#32 := by decide
theorem test_isbusy_in_last_stop : rspOf (exec .isbusy (at4 { sending with txState := .awaitingStop } none .mark)) =
    some 0x100#32 := by decide
theorem test_isbusy_idle : rspOf (exec .isbusy (at4 ready none .mark)) = some 0#32 := by decide

/-! ### One cycle (P1, P2, P5, V-SC, V-RX) -/

theorem test_step_illegal_before_init :
    rspOf (step (at4 Block.powerOn (some 0x20000100#32) .mark)) = some 0x10000000#32 := by decide
theorem test_step_data_tick_of_sending :
    (resultOf (step (at4 { sending with cnt := 2 } none .mark))).map
      (fun x => (x.2.txOut, x.2.txSr, x.2.txBits, x.2.cnt)) = some (true, 0x4A#8, 7#4, 3) := by decide
theorem test_step_tryget_of_byte_completed_now :
    rspOf (step (at4 lastSample (some 0x30000000#32) .mark)) = some 0xA5#32 := by decide
theorem test_step_init_overrides_edge :
    (resultOf (step (at4 ready (some 0x10000004#32) .space))).map
      (fun x => (x.2.rxDetEn, x.2.rxSampEn, x.2.rxPrev)) = some (true, false, false) := by decide
theorem test_step_edge_phase :
    (resultOf (step (at4 { ready with cnt := 2 } none .space))).map (fun x => (x.2.cnt, x.2.rxCmp)) =
      some (3, 1) := by decide
theorem test_step_undriven_line_reads_pullup :
    (resultOf (step (at4 ready none .undriven))).map (fun x => x.2.rxPrev) = some true := by decide
theorem test_prescaled_tick :
    ((timerStep ⟨48, 3, 16, 4, 4, true⟩ { ready with prescCnt := 2, cnt := 3 }).cnt,
      (timerStep ⟨48, 3, 16, 4, 4, true⟩ { ready with prescCnt := 1, cnt := 3 }).cnt) = (0, 3) := by decide
theorem test_ticks_tie_rounds_up : ticksPerBit ⟨20, 1, 16, 4, 4, true⟩ 8 = 3 := by decide
theorem test_fifo_wraps : (Fifo.push 4 ⟨fullFifo.storage, 3, 1⟩ 0x44#8).1.headIn = 0 := by decide
theorem test_overrun_keeps_rxq :
    (rxData ⟨16, 1, 16, 4, 2, true⟩ false { lastSample with rxAcc := 0x11#8, rxq := ⟨[(0, 0x11#8)], 1, 0⟩ }).rxq =
      ⟨[(0, 0x11#8)], 1, 0⟩ := by decide
theorem test_assembled_text :
    assembleText [['@', '1', ':', ' ', 'T', 'R', 'Y', 'P', 'U', 'T', ' ', '0', 'x', 'A', '5', ' ', ';', '!']] =
      some [.cycle true none, .cycle true (some 0x200000A5#32)] := by decide
/-- R113: the blank after a prefix is not asked for, and a line may hold only a comment, as the last one of P1 does. -/
theorem test_assembled_comment_line :
    assembleText [['@', '0', ':', 'I', 'S', 'B', 'U', 'S', 'Y'], [';', ' ', 'r', 'u', 'n'], [' ', ';']] =
      some [.cycle true (some 0x40000000#32)] := by decide

/-! ### Observation and end of a run (R274, R275) -/

/-- P2 at cycle 38: the observed response and level. -/
theorem test_program_result :
    programResult 1 (at4 { lastSample with txOut := false } (some 0x30000000#32) .mark) = ⟨[0xA5#32], [.space]⟩ := by decide
theorem test_observed_input_sequence :
    (observationsOn [⟨false, some 0x10000004#32⟩] (State.powerOn s4)) = [⟨true, 0#32, .mark, true⟩] := by decide
theorem test_idle_cycles_left_are_no_command :
    hostEnded { State.reset with host := [.cycle true none] } = true ∧
      hostEnded { State.reset with host := [.cycle true none, .putBlocking 1#8] } = false := by decide
/-- Set S4, the stop tick in P1's cycle 39 and `INIT 4` in cycle 40: the stop bit has held for its four cycles 39–42 in
cycle 42, three cycles after the run's first. -/
theorem test_drained_after_the_whole_stop_bit :
    drainedCycle
      [at4 { sending with cnt := 2, txState := .awaitingStop, txBits := 0#4 } (some 0x10000004#32) .mark,
       at4 { ready with cnt := 3, txTickEn := true } (some 0x10000004#32) .mark,
       { State.powerOn s4 with blk := ready }, { State.powerOn s4 with blk := { ready with cnt := 1 } },
       { State.powerOn s4 with blk := { ready with cnt := 2 } }] = some 3 := by decide
theorem test_pins_of_a_pair_are_two :
    (Pair.mk State.reset State.reset false).inputA.pad ≠ (Pair.mk State.reset State.reset false).inputB.pad := by decide
theorem test_illegal_parameters_refused :
    step { State.reset with params := ⟨16, 1, 16, 3, 4, true⟩ } = .refused .illegalParameters := by rfl
theorem test_index_over_its_width_faults :
    step { State.reset with blk := { Block.powerOn with txq := ⟨[], 4, 0⟩ } } = .fault .outsideStateSpace := by rfl

/-! ### Witnesses: for each statement with hypotheses, a state and operands that meet them -/

theorem witness_WordIsCommandExactlyByMask :
    (⟨"INIT", 0xFF000000#32, 0x10000000#32⟩ : OpRow) ∈ opTable ∧
      OpRow.matches ⟨"INIT", 0xFF000000#32, 0x10000000#32⟩ 0x10FFFFFF#32 = true := by decide
theorem witness_OperandsAreTheLowFields :
    decode 0x10FFFFFF#32 = .instr (.init 16777215) ∧ decode 0x200000FF#32 = .instr (.tryput 0xFF#8) := by decide
theorem witness_DecodeOfEncode : WellFormed (.init 16777215) ∧ WellFormed (.tryput 0#8) := by decide
theorem witness_EncodeOfDecode : decode 0x40000000#32 = .instr .isbusy := by decide
theorem witness_InitEffect :
    (4 = (2 * s4.fCpu + s4.prescaler * 4) / (2 * s4.prescaler * 4) ∧ ¬ ((4 : Nat) = 0 ∨ 4 < 2 ∨ 2 ^ s4.timerWidth < 4)) ∧
    (2 = (2 * s4.fCpu + s4.prescaler * 10) / (2 * s4.prescaler * 10) ∧
      ¬ ((10 : Nat) = 0 ∨ 2 < 2 ∨ 2 ^ s4.timerWidth < 2)) ∧
    (1 = (2 * s4.fCpu + s4.prescaler * 11) / (2 * s4.prescaler * 11) ∧ ((11 : Nat) = 0 ∨ 1 < 2 ∨ 2 ^ s4.timerWidth < 1)) := by
  decide
theorem witness_TryputEffect :
    State.reset.blk.configured = false ∧
    ((at4 (queued fullFifo) none .mark).blk.configured = true ∧ (fullFifo.headIn + 1) % s4.txFifoN = fullFifo.headOut) ∧
    ((at4 ready none .mark).blk.configured = true ∧ (ready.txq.headIn + 1) % s4.txFifoN ≠ ready.txq.headOut) := by decide
theorem witness_TrygetEffect :
    State.reset.blk.configured = false ∧ (ready.configured = true ∧ ready.rxq.headIn = ready.rxq.headOut) ∧
    ({ ready with rxq := ⟨[], 0, 3⟩ }.configured = true ∧
      { ready with rxq := ⟨[], 0, 3⟩ }.rxq.headIn ≠ { ready with rxq := ⟨[], 0, 3⟩ }.rxq.headOut) := by decide
theorem witness_IsbusyEffect :
    State.reset.blk.configured = false ∧
    (sending.configured = true ∧ (sending.txq.headIn ≠ sending.txq.headOut ∨ sending.txState ≠ .awaitingStart)) ∧
    (ready.configured = true ∧ ¬ (ready.txq.headIn ≠ ready.txq.headOut ∨ ready.txState ≠ .awaitingStart)) := by decide
theorem witness_NoCommandBeforeInit : (∀ baud, Instr.isbusy ≠ .init baud) ∧ State.reset.blk.configured = false :=
  ⟨fun _ => Instr.noConfusion, by decide⟩
theorem witness_IllegalWordEffect : decode 0x50000000#32 = .illegal .reservedOp := by decide
theorem witness_StatusPriority :
    rspOf (hostStep (some 0x50000000#32) State.reset) = some 0x10000000#32 ∧
    rspOf (hostStep (some 0x40000000#32) State.reset) = some 0x20000000#32 ∧
    rspOf (hostStep (some 0x10000000#32) State.reset) = some 0x30000000#32 ∧
    rspOf (hostStep (some 0x40000000#32) (at4 ready none .mark)) = some 0#32 := by decide
theorem witness_InitFrame :
    (resultOf (exec (.init 4) (at4 ready none .mark))).isSome = true ∧ legalBaud s4 0 = false := by decide
theorem witness_TryputFrame :
    (resultOf (exec (.tryput 1#8) (at4 ready none .mark))).isSome = true ∧ State.reset.blk.configured = false ∧
      (queued fullFifo).txq.full s4.txFifoN = true := by decide
theorem witness_TrygetAndIsbusyFrames :
    (resultOf (exec .tryget (at4 ready none .mark))).isSome = true ∧ ready.rxq.empty = true ∧
      (resultOf (exec .isbusy (at4 ready none .mark))).isSome = true := by decide
theorem witness_StepRunsDecodedCommand :
    legalParams s4 = true ∧ ready.fits s4 = true ∧
      (at4 ready (some 0x40000000#32) .mark).ports = (true, some 0x40000000#32) ∧
      decode 0x40000000#32 = .instr .isbusy ∧ (at4 ready none .mark).ports = (true, none) ∧
      (at4 ready (some 0x50000000#32) .mark).ports = (true, some 0x50000000#32) ∧
      decode 0x50000000#32 = .illegal .reservedOp := by decide
theorem witness_ResponseInTheCycleOfTheCommand :
    (resultOf (step (at4 ready none .mark))).isSome = true ∧ (at4 ready none .mark).ports = (true, none) ∧
      (resultOf (step (at4 ready (some 0#32) .mark))).isSome = true := by decide
theorem witness_ResetCycleGivesPowerOnValues :
    legalParams (held sending).params = true ∧ (held sending).blk.fits (held sending).params = true ∧
      (held sending).ports.1 = false := by decide
theorem powerOn_inv : Block.powerOn.Inv s4 :=
  ⟨by decide, fun _ => rfl, by decide, by decide, by decide, by decide, by decide, by decide, by decide, by decide,
    by decide, by decide⟩
theorem witness_NothingRunsBeforeInit :
    (at4 Block.powerOn (some 0x20000041#32) .mark).Inv ∧ Block.powerOn.configured = false ∧
      (at4 Block.powerOn (some 0x20000041#32) .mark).ports.1 = true ∧
      (resultOf (step (at4 Block.powerOn (some 0x20000041#32) .mark))).isSome = true ∧
      decode 0x20000041#32 = .instr (.tryput 0x41#8) :=
  ⟨⟨by decide, powerOn_inv⟩, by decide, by decide, by decide, by decide⟩
theorem witness_InitOverridesItsCycle :
    legalParams s4 = true ∧ sending.fits s4 = true ∧
      (at4 sending (some 0x10000004#32) .mark).ports = (true, some 0x10000004#32) ∧
      decode 0x10000004#32 = .instr (.init 4) ∧ legalBaud s4 4 = true := by decide
theorem full_inv : { queued fullFifo with cnt := 2 }.Inv s4 := inv_of_checks (by decide)
theorem witness_TryputIntoSlotFreedInItsCycle :
    (at4 { queued fullFifo with cnt := 2 } (some (encode (.tryput 0x44#8))) .mark).Inv ∧
      (at4 { queued fullFifo with cnt := 2 } (some (encode (.tryput 0x44#8))) .mark).ports =
        (true, some (encode (.tryput 0x44#8))) ∧
      txFire s4 { queued fullFifo with cnt := 2 } = true ∧ (queued fullFifo).txState = .awaitingStart ∧
      (queued fullFifo).configured = true ∧ (queued fullFifo).txq.full s4.txFifoN = true :=
  ⟨⟨by decide, full_inv⟩, by decide, by decide, by decide, by decide, by decide⟩
theorem lastSample_inv : lastSample.Inv s4 := inv_of_checks (by decide)
theorem witness_TrygetOfByteCompletedInItsCycle :
    (at4 lastSample (some 0x30000000#32) .mark).Inv ∧
      (at4 lastSample (some 0x30000000#32) .mark).ports = (true, some 0x30000000#32) ∧
      lastSample.configured = true ∧ rxFire s4 lastSample = true ∧ lastSample.rxState = .shiftingData ∧
      lastSample.rxBits = 1#4 ∧ lastSample.rxq.empty = true :=
  ⟨⟨by decide, lastSample_inv⟩, by decide, by decide, by decide, by decide, by decide, by decide⟩
theorem idle_inv : { ready with cnt := 2, txTickEn := true }.Inv s4 := inv_of_checks (by decide)
theorem witness_TryputRearmsTheIdleTick :
    (at4 { ready with cnt := 2, txTickEn := true } (some (encode (.tryput 0x55#8))) .mark).Inv ∧
      (at4 { ready with cnt := 2, txTickEn := true } (some (encode (.tryput 0x55#8))) .mark).ports =
        (true, some (encode (.tryput 0x55#8))) ∧
      ready.configured = true ∧ txFire s4 { ready with cnt := 2, txTickEn := true } = true ∧
      ready.txState = .awaitingStart ∧ ready.txq.empty = true :=
  ⟨⟨by decide, idle_inv⟩, by decide, by decide, by decide, by decide, by decide⟩
theorem witness_PinsFollowTheirRegisters :
    State.reset.blk.txOe = false ∧ (ready.txOe = true ∧ ready.txOut = true) ∧
      (sending.txOe = true ∧ sending.txOut = false) ∧ (at4 ready none .undriven).line = [.undriven] ∧
      (at4 ready none .undriven).blk.rxPu = true ∧ (at4 ready none .space).line = [.space] ∧
      (at4 ready none .mark).line = [.mark] := by decide
theorem witness_PutBlockingTriesAgain :
    rspOf (step { at4 (queued fullFifo) none .mark with host := [.putBlocking 7#8] }) = some 0#32 ∧
      rspOf (step { at4 ready none .mark with host := [.putBlocking 7#8] }) = some 0x100#32 := by decide
theorem witness_AssemblerPlacesCommands :
    assemble [⟨1, .command .tryget⟩, ⟨3, .command .isbusy⟩] =
      some [.cycle true none, .cycle true (some 0x30000000#32), .cycle true none, .cycle true (some 0x40000000#32)] := by
  decide
theorem witness_PairStepsTogether :
    ∃ q', (Pair.mk (at4 sending none .mark) (at4 ready none .mark) false).step = .next q' ∧ sending.txOe = true ∧
      (at4 ready none .mark).blk.rxPu = true ∧ State.reset.blk.txOe = false := ⟨_, rfl, by decide, by decide, by decide⟩
theorem witness_TimerOfAConfiguredCycle : ready.configured = true ∧ ready.prescCnt + 1 = s4.prescaler := by decide
/-- The premises give `next`, `b1` and `b2` their values; then a record for each clause: the configured ones with no
event, with each event alone, with both engines stepping, and the unconfigured one. -/
theorem witness_EventConditions :
    (0 = if ({ ready with cnt := 3 } : Block).cnt = ready.top then 0 else ({ ready with cnt := 3 } : Block).cnt + 1) ∧
      ({ ready with cnt := 0 } : Block) = (if ({ ready with cnt := 3 } : Block).prescCnt + 1 = s4.prescaler
        then { ({ ready with cnt := 3 } : Block) with prescCnt := 0, cnt := 0 }
        else { ({ ready with cnt := 3 } : Block) with prescCnt := ready.prescCnt + 1 }) ∧
      (ready.configured = true ∧ txFire s4 ready = false ∧ edge true ready = false ∧ rxFire s4 ready = false) ∧
      (edge false ready = true ∧ rxFire s4 ready = false) ∧
      (lastSample.configured = true ∧ edge true lastSample = false ∧ rxFire s4 lastSample = true) ∧
      (txFire s4 { lastSample with cnt := 2, rxCmp := 3, txTickEn := true } = true ∧
        rxFire s4 { lastSample with cnt := 2, rxCmp := 3, txTickEn := true } = true) ∧
      Block.powerOn.configured = false := by decide
theorem witness_EventConditions_exclusive : ready.configured = true ∧ ready.Inv s4 :=
  ⟨by decide, inv_of_checks (by decide)⟩
theorem witness_TxIdleTick : ready.txState = .awaitingStart ∧ ready.txq.headIn = ready.txq.headOut := by decide
theorem witness_TxStartTick : (queued fullFifo).txState = .awaitingStart ∧ fullFifo.headIn ≠ fullFifo.headOut := by decide
theorem witness_TxDataTick :
    (sending.txState = .shiftingData ∧ 1 ≤ sending.txBits.toNat ∧ sending.txBits.toNat ≤ 8) ∧
      (1 : Nat) ≤ ({ sending with txBits := 1#4 } : Block).txBits.toNat := by decide
theorem witness_TxStopTick : ({ sending with txState := .awaitingStop } : Block).txState = .awaitingStop := by decide
theorem witness_TenTicksSendOneByte :
    (queued fullFifo).txState = .awaitingStart ∧
      (queued fullFifo).txq.pop s4.txFifoN = some (0x11#8, ⟨fullFifo.storage, 3, 1⟩) := by decide
theorem witness_RxMidStartFiring : detected.rxState = .awaitingStart := by decide
theorem witness_RxDataFiring :
    (lastSample.rxState = .shiftingData ∧ lastSample.rxBits.toNat = 1 ∧
        (lastSample.rxq.headIn + 1) % s4.rxFifoN ≠ lastSample.rxq.headOut) ∧
      ({ lastSample with rxq := fullFifo }.rxState = .shiftingData ∧
        (fullFifo.headIn + 1) % s4.rxFifoN = fullFifo.headOut) ∧
      (({ lastSample with rxBits := 8#4 } : Block).rxBits.toNat ≠ 1 ∧
        1 ≤ ({ lastSample with rxBits := 8#4 } : Block).rxBits.toNat ∧
        ({ lastSample with rxBits := 8#4 } : Block).rxBits.toNat ≤ 8) ∧
      (0xA5#8 = (lastSample.rxAcc <<< 1 ||| (if true then 1#8 else 0#8))) := by decide
theorem witness_RxMidStopFiring : ({ lastSample with rxState := .awaitingStop } : Block).rxState = .awaitingStop := by decide
theorem witness_TenFiringsReceiveOneByte : detected.rxState = .awaitingStart := by decide
/-- The two parts of the premise: the Tx side of one record, its Rx side changed, and the other way about. -/
theorem witness_EnginesAreIndependent :
    ({ sending with rxAcc := 0xFF#8 } : Block).txSr = sending.txSr ∧
      ({ sending with rxAcc := 0xFF#8 } : Block).top = sending.top ∧
      ({ sending with txSr := 0xFF#8 } : Block).rxAcc = sending.rxAcc := by decide
theorem witness_TicksRoundToNearestHalfUp : 1 ≤ Params.default.prescaler ∧ (1 : Nat) ≤ 31 := by decide
theorem witness_PushAppends :
    legalCapacity 4 = true ∧ (fullFifo.fits 4 = true ∧ fullFifo.count 4 = 4 - 1) ∧
      (Fifo.zeroed.fits 4 = true ∧ Fifo.zeroed.count 4 ≠ 4 - 1) ∧ legalCapacity 2 = true := by decide
theorem witness_PopTakesTheOldest :
    legalCapacity 4 = true ∧ fullFifo.fits 4 = true ∧ fullFifo.pop 4 = some (0x11#8, ⟨fullFifo.storage, 3, 1⟩) := by decide
theorem witness_CapacityIsOneLessThanTheSlots : legalCapacity 4 = true ∧ fullFifo.fits 4 = true := by decide
theorem witness_CapacityBoundary :
    legalCapacity 4 = true ∧ Fifo.zeroed.fits 4 = true ∧ Fifo.zeroed.empty = true ∧
      [0x11#8, 0x22#8, 0x33#8].length = 4 - 1 := by decide
theorem witness_ResetMeetsInvariant : legalParams Params.default = true ∧ legalParams s4 = true := by decide
theorem ready_inv : ready.Inv s4 := inv_of_checks (by decide)
theorem witness_StepKeepsInvariant :
    (at4 ready (some 0x20000041#32) .space).Inv ∧
      (resultOf (step (at4 ready (some 0x20000041#32) .space))).isSome = true :=
  ⟨⟨by decide, ready_inv⟩, by decide⟩
theorem witness_BlockNeverStops : (at4 ready none .mark).Inv := ⟨by decide, ready_inv⟩
theorem witness_StepKeepsParameters :
    (resultOf (step (at4 ready (some 0x20000041#32) .space))).isSome = true ∧ ready.txOe = ready.configured := by decide
theorem witness_OnlyInitConfigures :
    (resultOf (step (at4 ready (some 0x20000041#32) .mark))).isSome = true ∧
      (at4 ready (some 0x20000041#32) .mark).ports.1 = true ∧
      decode 0x20000041#32 = .instr (.tryput 0x41#8) := by decide
theorem sending_inv : sending.Inv s4 := inv_of_checks (by decide)
/-- Runs of a whole period and of less, and the boundary values of `v`. -/
theorem witness_CounterPeriod :
    sending.Inv s4 ∧ (sending.configured = true ∧ 4 = (sending.top + 1) * s4.prescaler) ∧
      (List.replicate 4 true).length = 4 ∧ ¬ 4 ∣ (List.replicate 3 true).length ∧ 0 ≤ sending.top ∧ 3 ≤ sending.top :=
  ⟨sending_inv, by decide, by decide, by decide, by decide, by decide⟩
/-- With `T = 4` and run lengths at both ends of each clause. -/
theorem witness_FrameWaveform :
    sending.Inv s4 ∧ (sending.configured = true ∧ sending.txState = .shiftingData ∧ sending.txBits = 8#4 ∧
      sending.txOut = false ∧ sending.cnt = sending.top ∧ sending.prescCnt = 0 ∧
      4 = (sending.top + 1) * s4.prescaler) ∧
    [0, 3, 4, 7, 32, 35, 36, 39].map (fun n => (List.replicate n true).length) =
      [0, 4 - 1, 4 * (0 + 1), 4 * (0 + 2) - 1, 4 * (7 + 1), 4 * (7 + 2) - 1, 9 * 4, 10 * 4 - 1] :=
  ⟨sending_inv, by decide, by decide⟩
theorem witness_BusyUntilTheStopBit :
    sending.Inv s4 ∧ (sending.configured = true ∧ sending.txState = .shiftingData ∧ sending.txBits = 8#4 ∧
      sending.txq.empty = true ∧ sending.cnt = sending.top ∧ sending.prescCnt = 0 ∧
      4 = (sending.top + 1) * s4.prescaler) ∧
    [35, 36].map (fun n => (List.replicate n true).length) = [9 * 4 - 1, 9 * 4] :=
  ⟨sending_inv, by decide, by decide⟩
theorem witness_FirstTicksAfterInit :
    legalParams s4 = true ∧ legalBaud s4 4 = true ∧ 3 = ticksPerBit s4 4 - 1 ∧
      [0, 1, 2, 3].map (fun n => (List.replicate n true).length) =
        [s4.prescaler - 1, s4.prescaler, s4.prescaler * 3 - 1, s4.prescaler * 3] := by decide
theorem detected_inv : detected.Inv s4 := inv_of_checks (by decide)
theorem witness_ReceiverAlwaysRearms :
    detected.Inv s4 ∧ detected.configured = true ∧
      (List.replicate 40 false).length = 10 * ((detected.top + 1) * s4.prescaler) := ⟨detected_inv, by decide, by decide⟩
theorem witness_FirstSampleDelay :
    detected.Inv s4 ∧ (detected.configured = true ∧ detected.rxSampEn = true ∧
      detected.rxCmp = (detected.cnt + (detected.top + 1) / 2) % (detected.top + 1) ∧
      2 = (s4.prescaler - detected.prescCnt) + ((detected.top + 1) / 2 - 1) * s4.prescaler) ∧
      ([] : List Bool).length + 1 < 2 ∧ [true].length + 1 = 2 := ⟨detected_inv, by decide, by decide, by decide⟩
theorem queued_full_inv : (queued fullFifo).Inv s4 := inv_of_checks (by decide)
theorem witness_PutBlockingEnds :
    State.Inv { at4 (queued fullFifo) none .mark with host := [.putBlocking 7#8] } ∧
      (queued fullFifo).configured = true ∧
      State.Inv { at4 Block.powerOn none .mark with host := [.putBlocking 7#8] } ∧
      Block.powerOn.configured = false :=
  ⟨⟨by decide, queued_full_inv⟩, by decide, ⟨by decide, powerOn_inv⟩, by decide⟩
theorem witness_RoundTrip :
    sending.Inv s4 ∧ ready.Inv s4 ∧
      (ready.top = sending.top ∧ sending.configured = true ∧ sending.txState = .shiftingData ∧
        sending.txBits = 8#4 ∧ sending.txOut = false ∧ sending.cnt = sending.top ∧ sending.prescCnt = 0 ∧
        4 = (sending.top + 1) * s4.prescaler ∧ (List.replicate 36 true).length = 9 * 4 ∧
        ready.configured = true ∧ ready.rxDetEn = true ∧ ready.rxPrev = true ∧ ready.rxq.empty = true ∧
        legalCapacity s4.rxFifoN = true) := ⟨sending_inv, ready_inv, by decide⟩

/-! ### What the host asks: does the first step from reset run a table word -/

theorem test_first_step_runs_tryput :
    rspOf (step (State.reset.withFetchWord 32 0x20000000)) = some 0x20000000#32 := by decide
theorem test_first_step_runs_init :
    rspOf (step (State.reset.withFetchWord 32 0x10002580)) = some 0#32 := by decide

end Sys2Proof.Tests
end

/-! # The invariants of 10_state.md §9 (R60–R67), kept by every step

The host step and the whole step are inverted once (`hostStep_writes`, `step_next_cases`). Each part of a cycle
(timer, Tx engine, Rx engine, command, input history) has one lemma saying that it keeps `Block.Inv`; such a lemma names
only the invariants whose fields the part writes, the others being those of the record before. -/

namespace Sys2Proof.Machine

/-! ### What a step does, inverted -/

/-- What the host step can make of a record (R222–R235): it leaves it, or an `INIT` was presented and accepted, or a
configured block pushed or popped. `inits` says which baud the `INIT` presented had, if it was one. -/
def HostWrites (p : Params) (inits : Nat → Prop) (b b' : Block) : Prop :=
  b' = b ∨
  (∃ baud, inits baud ∧ legalBaud p baud = true ∧ b' = initBlock p baud b) ∨
  (b.configured = true ∧ ∃ data,
    b' = putBlock b (b.txq.push p.txFifoN data).1 (b.txq.push p.txFifoN data).2) ∨
  (b.configured = true ∧ ∃ v q, b.rxq.pop p.rxFifoN = some (v, q) ∧ b' = { b with rxq := q })

/-- A command either leaves the record or makes one of the writes of `HostWrites` of it. -/
theorem exec_writes {i : Instr} {s u : State} (h : exec i s = .next u) :
    HostWrites s.params (i = .init ·) s.blk u.blk := by
  have guarded {t : State} (h : whenConfigured s t = .next u) :
      u.blk = s.blk ∨ s.blk.configured = true ∧ u = t := by
    rcases whenConfigured_cases s t with ⟨hc, e⟩ | ⟨-, e⟩ <;> rw [e] at h <;> cases h
    · exact .inr ⟨hc, rfl⟩
    · exact .inl rfl
  cases i with
  | init baud =>
    simp only [exec, execInit] at h
    split at h <;> cases h
    next hl => exact .inr (.inl ⟨baud, rfl, hl, rfl⟩)
    next => exact .inl rfl
  | tryput data =>
    rcases guarded h with e | ⟨hc, rfl⟩
    · exact .inl e
    · exact .inr (.inr (.inl ⟨hc, data, rfl⟩))
  | tryget =>
    simp only [exec, execTryget] at h
    split at h
    next v q hp =>
      rcases guarded h with e | ⟨hc, rfl⟩
      · exact .inl e
      · exact .inr (.inr (.inr ⟨hc, v, q, hp, rfl⟩))
    next =>
      rcases guarded h with e | ⟨-, rfl⟩
      · exact .inl e
      · exact .inl rfl
  | isbusy =>
    rcases guarded h with e | ⟨-, rfl⟩
    · exact .inl e
    · exact .inl rfl

/-- Without a command and on an illegal word the host step leaves the record (R220, R236). -/
theorem hostStep_writes {cmd : Option Word} {s u : State} (h : hostStep cmd s = .next u) :
    HostWrites s.params (fun baud => ∃ c, cmd = some c ∧ decode c = .instr (.init baud)) s.blk u.blk := by
  cases cmd with
  | none => cases h; exact .inl rfl
  | some c =>
    simp only [hostStep] at h
    split at h
    next => cases h; exact .inl rfl
    next i hi =>
      rcases exec_writes h with e | ⟨baud, rfl, hl, e⟩ | e
      · exact .inl e
      · exact .inr (.inl ⟨baud, ⟨c, rfl, hi⟩, hl, e⟩)
      · exact .inr (.inr e)

/-- A next state of a host step has the parameters and the pin's number of the state before. -/
theorem hostStep_params_pad {cmd : Option Word} {s u : State} (h : hostStep cmd s = .next u) :
    u.params = s.params ∧ u.pad = s.pad := by
  obtain ⟨u', h', hparams, -, -, hpad, -⟩ := hostStep_next cmd s
  cases h.symm.trans h'
  exact ⟨hparams, hpad⟩

/-- A next state of a step is that of a reset cycle, or the end of a cycle whose host step answered. -/
theorem step_next_cases {s t : State} (h : step s = .next t) :
    (s.ports.1 = false ∧ t = s.resetCycle) ∨
    (s.ports.1 = true ∧ ∃ u, hostStep s.ports.2 (s.runEngines s.sample) = .next u ∧ t = u.endCycle s.sample) := by
  rcases step_cases s with ⟨-, e⟩ | ⟨-, -, e⟩ | ⟨-, -, hr, e⟩ | ⟨-, -, hr, e⟩ <;> rw [e] at h
  · cases h
  · cases h
  · cases h; exact .inl ⟨hr, rfl⟩
  · obtain ⟨u, hu, rfl⟩ := (mapNext_eq_next _).mp h
    exact .inr ⟨hr, u, hu, rfl⟩

/-- Every next state has the parameters and the pin's number of the state before (R31). -/
theorem step_params_pad {s t : State} (h : step s = .next t) : t.params = s.params ∧ t.pad = s.pad := by
  rcases step_next_cases h with ⟨-, rfl⟩ | ⟨-, u, hu, rfl⟩
  · simp
  · simpa using hostStep_params_pad hu

/-- A host step that takes no `INIT` word keeps the configuration and the pin directions (R34, R35, R52, R53). -/
theorem hostStep_config {cmd : Option Word} {s u : State} (h : hostStep cmd s = .next u)
    (noInit : ∀ c baud, cmd = some c → decode c ≠ .instr (.init baud)) :
    u.blk.configured = s.blk.configured ∧ u.blk.top = s.blk.top ∧ u.blk.txOe = s.blk.txOe ∧
      u.blk.rxPu = s.blk.rxPu := by
  rcases hostStep_writes h with e | ⟨baud, ⟨c, hc, hd⟩, -⟩ | ⟨-, data, e⟩ | ⟨-, v, q, -, e⟩
  · simp [e]
  · exact absurd hd (noInit c baud hc)
  · simp [e, putBlock_frame]
  · simp [e]

/-- A host step keeps `tx_oe` equal to `configured` (R67): `INIT` sets both. -/
theorem hostStep_pinDriven {cmd : Option Word} {s u : State} (h : hostStep cmd s = .next u)
    (pin : s.blk.txOe = s.blk.configured) : u.blk.txOe = u.blk.configured := by
  rcases hostStep_writes h with e | ⟨baud, -, -, e⟩ | ⟨-, data, e⟩ | ⟨-, v, q, -, e⟩ <;> rw [e]
  · exact pin
  · rfl
  · exact pin
  · exact pin

/-! ### Reset and `INIT` -/

/-- A legal capacity has a slot (R71). -/
theorem legalCapacity_pos {n : Nat} (h : legalCapacity n = true) : 0 < n := by
  obtain ⟨k, -, rfl⟩ := (legalCapacity_iff n).mp h
  positivity

/-- The bauds of R133. -/
theorem legalBaud_iff (p : Params) (baud : Nat) :
    legalBaud p baud = true ↔ 1 ≤ baud ∧ 2 ≤ ticksPerBit p baud ∧ ticksPerBit p baud ≤ 2 ^ p.timerWidth := by
  simp [legalBaud]

/-- A record with both FIFOs emptied and the counters zeroed has its shape if `top` has. -/
theorem zeroed_fits {p : Params} {b : Block} (hp : legalParams p = true) (htop : b.top < 2 ^ p.timerWidth)
    (hpresc : b.prescCnt = 0) (hcnt : b.cnt = 0) (hcmp : b.rxCmp = 0) (htxq : b.txq = Fifo.zeroed)
    (hrxq : b.rxq = Fifo.zeroed) : b.fits p = true := by
  obtain ⟨⟨-, hprescaler, -⟩, htx, hrx⟩ := (legalParams_iff p).mp hp
  rw [Block.fits_iff, hpresc, hcnt, hcmp, htxq, hrxq]
  have hwidth : 0 < 2 ^ p.timerWidth := by positivity
  exact ⟨⟨htop, hprescaler, hwidth, hwidth⟩, Fifo.zeroed_fits (legalCapacity_pos htx),
    Fifo.zeroed_fits (legalCapacity_pos hrx)⟩

/-- R68: the power-on values meet the invariants. -/
theorem powerOn_meets_inv {p : Params} (hp : legalParams p = true) : Block.powerOn.Inv p where
  fits := zeroed_fits hp (Nat.two_pow_pos _) rfl rfl rfl rfl rfl
  unconfigured _ := rfl
  oneRxEvent := nofun
  armedIdle := nofun
  txEnabled := by simp [Block.powerOn, Fifo.empty, Fifo.zeroed]
  txBitsRange := nofun
  rxBitsRange := nofun
  txBitsRest _ := rfl
  rxBitsRest _ := rfl
  counters := nofun
  pinDriven := rfl
  idleMark := nofun

/-- R222: what an accepted `INIT` leaves meets the invariants, whatever the record before. -/
theorem initBlock_meets_inv {p : Params} {baud : Nat} (b : Block) (hp : legalParams p = true)
    (hl : legalBaud p baud = true) : (initBlock p baud b).Inv p := by
  obtain ⟨-, hlow, hhigh⟩ := (legalBaud_iff p baud).mp hl
  exact {
    fits := zeroed_fits hp (show ticksPerBit p baud - 1 < _ by omega) rfl rfl rfl rfl rfl
    unconfigured := nofun
    oneRxEvent := fun _ => rfl
    armedIdle := fun _ => rfl
    txEnabled := by simp [initBlock, Fifo.empty, Fifo.zeroed]
    txBitsRange := nofun
    rxBitsRange := nofun
    txBitsRest := fun _ => rfl
    rxBitsRest := fun _ => rfl
    counters := fun _ => ⟨Nat.zero_le _, Nat.zero_le _, show 1 ≤ ticksPerBit p baud - 1 by omega⟩
    pinDriven := rfl
    idleMark := fun _ _ => rfl }

/-! ### The bit counters -/

/-- The number of data bits a frame starts with is in R64's range. -/
theorem eight_bits_range : 1 ≤ (8#4).toNat ∧ (8#4).toNat ≤ 8 := by decide

/-- A counter of R64's range that does not reach 0 is in the range again. -/
theorem bits_sub_one_range {n : BitVec 4} (h : 1 ≤ n.toNat ∧ n.toNat ≤ 8) (hne : n - 1#4 ≠ 0#4) :
    1 ≤ (n - 1#4).toNat ∧ (n - 1#4).toNat ≤ 8 := by
  bv_omega

/-! ### The parts of a cycle on a configured block -/

section Configured
variable {p : Params} {b : Block} (hb : b.Inv p) (hc : b.configured = true)
include hb hc

omit hb in
/-- R60 says nothing of a configured block. -/
theorem Block.r60_of_configured (b' : Block) (h : b'.configured = b.configured) :
    b'.configured = false → b' = { Block.powerOn with rxPrev := b'.rxPrev } :=
  fun hf => absurd (hc.symm.trans (h.symm.trans hf)) (by decide)

theorem nextCnt_le_top : nextCnt b ≤ b.top := by
  obtain ⟨hcnt, -, -⟩ := hb.counters hc
  unfold nextCnt
  split <;> omega

theorem timerStep_keeps_inv : (timerStep p b).Inv p := by
  obtain ⟨⟨htop, hpresc, hcnt, hcmp⟩, htxq, hrxq⟩ := (Block.fits_iff p b).mp hb.fits
  have hnext := nextCnt_le_top hb hc
  obtain ⟨-, hcmpTop, hone⟩ := hb.counters hc
  rcases timerStep_cases p b with ⟨-, e⟩ | ⟨hne, e⟩ <;> rw [e]
  · exact { hb with
      fits := (Block.fits_iff p _).mpr ⟨⟨htop, Nat.zero_lt_of_lt hpresc, hnext.trans_lt htop, hcmp⟩, htxq, hrxq⟩
      unconfigured := Block.r60_of_configured hc _ rfl
      counters := fun _ => ⟨hnext, hcmpTop, hone⟩ }
  · exact { hb with
      fits := (Block.fits_iff p _).mpr ⟨⟨htop, show b.prescCnt + 1 < _ by omega, hcnt, hcmp⟩, htxq, hrxq⟩
      unconfigured := Block.r60_of_configured hc _ rfl }

theorem txIdle_keeps_inv (hs : b.txState = .awaitingStart) (he : b.txq.empty = true) : (txIdle b).Inv p :=
  { hb with
    unconfigured := Block.r60_of_configured hc _ rfl
    txEnabled := by simp [txIdle, hs, he]
    idleMark := fun _ _ => rfl }

theorem txStart_keeps_inv {v : Byte} {q : Fifo} (hen : b.txTickEn = true) (hq : q.fits p.txFifoN = true) :
    (txStart v q b).Inv p := by
  obtain ⟨hregs, -, hrxq⟩ := (Block.fits_iff p b).mp hb.fits
  exact { hb with
    fits := (Block.fits_iff p _).mpr ⟨hregs, hq, hrxq⟩
    unconfigured := Block.r60_of_configured hc _ rfl
    txEnabled := fun _ => hen
    txBitsRange := fun _ => eight_bits_range
    txBitsRest := fun h => absurd rfl h
    idleMark := nofun }

theorem txData_keeps_inv (hen : b.txTickEn = true) (hs : b.txState = .shiftingData) : (txData b).Inv p := by
  have hrange := hb.txBitsRange hs
  have hstate : (txData b).txState = if b.txBits - 1#4 = 0#4 then .awaitingStop else .shiftingData := rfl
  exact { hb with
    unconfigured := Block.r60_of_configured hc _ rfl
    txEnabled := fun _ => hen
    txBitsRange := fun h => bits_sub_one_range hrange fun h0 => by simp [hstate, h0] at h
    txBitsRest := fun h => by_contra fun h0 => h (hstate.trans (if_neg h0))
    idleMark := fun _ h => by rw [hstate] at h; split at h <;> cases h }

theorem txStop_keeps_inv (hen : b.txTickEn = true) (hs : b.txState = .awaitingStop) : (txStop b).Inv p :=
  { hb with
    unconfigured := Block.r60_of_configured hc _ rfl
    txEnabled := fun _ => hen
    txBitsRange := nofun
    txBitsRest := fun _ => hb.txBitsRest (by simp [hs])
    idleMark := fun _ _ => rfl }

/-- A Tx tick is gated by `tx_tick_en` (R139), so that a frame runs with it set, as R63 needs. -/
theorem txStep_keeps_inv (hen : b.txTickEn = true) : (txStep p b).Inv p := by
  rcases txStep_cases p b with ⟨hs, he, e⟩ | ⟨-, he, e⟩ | ⟨hs, e⟩ | ⟨hs, e⟩ <;> rw [e]
  · exact txIdle_keeps_inv hb hc hs he
  · obtain ⟨-, htxq, -⟩ := (Block.fits_iff p b).mp hb.fits
    exact txStart_keeps_inv hb hc hen (Fifo.pop_fits htxq (by simp [Fifo.pop, he]; rfl))
  · exact txData_keeps_inv hb hc hen hs
  · exact txStop_keeps_inv hb hc hen hs

theorem rxDetect_keeps_inv (hen : b.rxDetEn = true) : (rxDetect b).Inv p := by
  obtain ⟨⟨htop, hpresc, hcnt, -⟩, hqs⟩ := (Block.fits_iff p b).mp hb.fits
  obtain ⟨hcntTop, -, hone⟩ := hb.counters hc
  have hcmp : (rxDetect b).rxCmp ≤ b.top := Nat.le_of_lt_succ (Nat.mod_lt _ (Nat.succ_pos _))
  exact { hb with
    fits := (Block.fits_iff p _).mpr ⟨⟨htop, hpresc, hcnt, hcmp.trans_lt htop⟩, hqs⟩
    unconfigured := Block.r60_of_configured hc _ rfl
    oneRxEvent := fun _ => rfl
    armedIdle := nofun
    rxBitsRange := nofun
    rxBitsRest := fun _ => hb.rxBitsRest (by simp [hb.armedIdle hen])
    counters := fun _ => ⟨hcntTop, hcmp, hone⟩ }

/-- R62 says nothing while the sampler is enabled, since the detector is not then (R61). -/
theorem Block.r62_of_sampling (hen : b.rxSampEn = true) (b' : Block) (h : b'.rxDetEn = b.rxDetEn) :
    b'.rxDetEn = true → b'.rxState = .awaitingStart := by
  simp [h, hb.oneRxEvent hc, hen]

theorem rxMidStart_keeps_inv (hen : b.rxSampEn = true) : (rxMidStart b).Inv p :=
  { hb with
    unconfigured := Block.r60_of_configured hc _ rfl
    armedIdle := Block.r62_of_sampling hb hc hen _ rfl
    rxBitsRange := fun _ => eight_bits_range
    rxBitsRest := fun h => absurd rfl h }

theorem rxData_keeps_inv (r : Bool) (hen : b.rxSampEn = true) (hs : b.rxState = .shiftingData) :
    (rxData p r b).Inv p := by
  obtain ⟨hregs, htxq, hrxq⟩ := (Block.fits_iff p b).mp hb.fits
  rcases rxData_cases p r b with ⟨-, e⟩ | ⟨hne, e⟩ <;> rw [e]
  · exact { hb with
      fits := (Block.fits_iff p _).mpr ⟨hregs, htxq, Fifo.push_fits _ hrxq⟩
      unconfigured := Block.r60_of_configured hc _ rfl
      armedIdle := Block.r62_of_sampling hb hc hen _ rfl
      rxBitsRange := nofun
      rxBitsRest := fun _ => rfl }
  · exact { hb with
      unconfigured := Block.r60_of_configured hc _ rfl
      rxBitsRange := fun _ => bits_sub_one_range (hb.rxBitsRange hs) hne
      rxBitsRest := fun h => absurd hs h }

theorem rxMidStop_keeps_inv (hs : b.rxState = .awaitingStop) : (rxMidStop b).Inv p :=
  { hb with
    unconfigured := Block.r60_of_configured hc _ rfl
    oneRxEvent := fun _ => rfl
    armedIdle := fun _ => rfl
    rxBitsRange := nofun
    rxBitsRest := fun _ => hb.rxBitsRest (by simp [hs]) }

theorem rxStep_keeps_inv (r : Bool) (hen : b.rxSampEn = true) : (rxStep p r b).Inv p := by
  rcases rxStep_cases p r b with ⟨-, e⟩ | ⟨hs, e⟩ | ⟨hs, e⟩ <;> rw [e]
  · exact rxMidStart_keeps_inv hb hc hen
  · exact rxData_keeps_inv hb hc r hen hs
  · exact rxMidStop_keeps_inv hb hc hs

/-- A `TRYPUT` arms the Tx tick whenever it fills an empty `txq`, as R63 needs. -/
theorem putBlock_push_keeps_inv (data : Byte) :
    (putBlock b (b.txq.push p.txFifoN data).1 (b.txq.push p.txFifoN data).2).Inv p := by
  obtain ⟨hregs, htxq, hrxq⟩ := (Block.fits_iff p b).mp hb.fits
  exact { hb with
    fits := (Block.fits_iff p _).mpr ⟨hregs, Fifo.push_fits _ htxq, hrxq⟩
    unconfigured := Block.r60_of_configured hc _ rfl
    txEnabled := fun h => by
      rcases Fifo.push_cases p.txFifoN b.txq data with ⟨-, e⟩ | ⟨-, e⟩ <;> rw [e] at h ⊢
      · exact hb.txEnabled h
      · rfl }

theorem pop_rxq_keeps_inv {v : Byte} {q : Fifo} (hpop : b.rxq.pop p.rxFifoN = some (v, q)) :
    Block.Inv p { b with rxq := q } := by
  obtain ⟨hregs, htxq, hrxq⟩ := (Block.fits_iff p b).mp hb.fits
  exact { hb with
    fits := (Block.fits_iff p _).mpr ⟨hregs, htxq, Fifo.pop_fits hrxq hpop⟩
    unconfigured := Block.r60_of_configured hc _ rfl }

end Configured

/-! ### The engines' part of a cycle -/

/-- The record after the timer and the Tx engine, steps 1 and 2 of R260. -/
def afterTx (p : Params) (b : Block) : Block :=
  if txFire p b then txStep p (timerStep p b) else timerStep p b

/-- The timer leaves the enables and `configured`. -/
theorem timerStep_enables (p : Params) (b : Block) :
    (timerStep p b).configured = b.configured ∧ (timerStep p b).txTickEn = b.txTickEn ∧
      (timerStep p b).rxDetEn = b.rxDetEn ∧ (timerStep p b).rxSampEn = b.rxSampEn := by
  rw [timerStep_frame]; simp

/-- The timer and the Tx engine leave `configured` and the Rx enables. -/
theorem afterTx_enables (p : Params) (b : Block) :
    (afterTx p b).configured = b.configured ∧ (afterTx p b).rxDetEn = b.rxDetEn ∧
      (afterTx p b).rxSampEn = b.rxSampEn := by
  obtain ⟨hconf, -, hdet, hsamp⟩ := timerStep_enables p b
  unfold afterTx
  split
  · rw [txStep_frame]; exact ⟨hconf, hdet, hsamp⟩
  · exact ⟨hconf, hdet, hsamp⟩

/-- At most one Rx event follows (R61): the start-bit detection, or a sampler firing, or none. -/
theorem configuredEngines_cases {p : Params} {b : Block} (r : Bool) (one : b.rxDetEn = !b.rxSampEn) :
    (b.rxDetEn = true ∧ configuredEngines p r b = rxDetect (afterTx p b)) ∨
    (b.rxSampEn = true ∧ configuredEngines p r b = rxStep p r (afterTx p b)) ∨
    configuredEngines p r b = afterTx p b := by
  have unfolded : configuredEngines p r b =
      if rxFire p b then rxStep p r (if edge r b then rxDetect (afterTx p b) else afterTx p b)
      else if edge r b then rxDetect (afterTx p b) else afterTx p b := rfl
  cases hs : b.rxSampEn with
  | true =>
    have hedge : edge r b = false := by simp [edge, one, hs]
    cases hf : rxFire p b with
    | true => exact .inr (.inl ⟨rfl, by simp [unfolded, hedge, hf]⟩)
    | false => exact .inr (.inr (by simp [unfolded, hedge, hf]))
  | false =>
    have hfire : rxFire p b = false := by simp [rxFire, hs]
    cases he : edge r b with
    | true => exact .inl ⟨by simp [one, hs], by simp [unfolded, he, hfire]⟩
    | false => exact .inr (.inr (by simp [unfolded, he, hfire]))

section Engines
variable {p : Params} {b : Block} (hb : b.Inv p)
include hb

theorem afterTx_keeps_inv (hc : b.configured = true) : (afterTx p b).Inv p := by
  obtain ⟨hconf, htick, -, -⟩ := timerStep_enables p b
  have ht := timerStep_keeps_inv hb hc
  unfold afterTx
  split
  next hfire =>
    have hen : b.txTickEn = true := (Bool.and_eq_true_iff.mp hfire).2
    exact txStep_keeps_inv ht (hconf.trans hc) (htick.trans hen)
  next => exact ht

theorem configuredEngines_keeps_inv (r : Bool) (hc : b.configured = true) : (configuredEngines p r b).Inv p := by
  obtain ⟨hconf, hdet, hsamp⟩ := afterTx_enables p b
  have htx := afterTx_keeps_inv hb hc
  rcases configuredEngines_cases (p := p) r (hb.oneRxEvent hc) with ⟨hen, e⟩ | ⟨hen, e⟩ | e <;> rw [e]
  · exact rxDetect_keeps_inv htx (hconf.trans hc) (hdet.trans hen)
  · exact rxStep_keeps_inv htx (hconf.trans hc) r (hsamp.trans hen)
  · exact htx

theorem engines_keeps_inv (r : Bool) : (engines p r b).Inv p := by
  cases hc : b.configured with
  | false => rwa [engines_unconfigured r hc]
  | true => simpa [engines, hc] using configuredEngines_keeps_inv hb r hc

/-- R60 leaves `rx_prev` free, so the input history may be recorded before `INIT` too (R54). -/
theorem recordInput_keeps_inv (r : Bool) : (recordInput r b).Inv p :=
  { hb with
    unconfigured := fun h => by
      have h60 := hb.unconfigured h
      rw [h60]; rfl }

/-- The record after a cycle without a command meets the invariants again. -/
theorem quietCycle_keeps_inv (r : Bool) : (quietCycle p r b).Inv p :=
  recordInput_keeps_inv (engines_keeps_inv hb r) r

end Engines

/-- Whatever the command, the host step keeps the invariants. -/
theorem hostStep_keeps_inv {cmd : Option Word} {s u : State} (hs : s.Inv) (h : hostStep cmd s = .next u) : u.Inv := by
  obtain ⟨hp, hb⟩ := hs
  obtain ⟨hparams, -⟩ := hostStep_params_pad h
  refine ⟨by rwa [hparams], ?_⟩
  rw [hparams]
  rcases hostStep_writes h with e | ⟨baud, -, hl, e⟩ | ⟨hc, data, e⟩ | ⟨hc, v, q, hpop, e⟩ <;> rw [e]
  · exact hb
  · exact initBlock_meets_inv s.blk hp hl
  · exact putBlock_push_keeps_inv hb hc data
  · exact pop_rxq_keeps_inv hb hc hpop

/-! ### The statements -/

/-- Settles O48: the power-on record is the reset record of R68, and `State.reset` is that record with the
default parameters. -/
theorem resetMeetsInvariant : Obligations.ResetMeetsInvariant :=
  have powerOn (p : Params) (hp : legalParams p = true) : (State.powerOn p).Inv := ⟨hp, powerOn_meets_inv hp⟩
  ⟨powerOn, powerOn Params.default (by decide)⟩

/-- Settles O49: the engines, the host step and the input history each keep the invariants, and a reset cycle ends in
the power-on record. -/
theorem stepKeepsInvariant : Obligations.StepKeepsInvariant := by
  intro s t ⟨hp, hb⟩ h
  rcases step_next_cases h with ⟨-, rfl⟩ | ⟨-, u, hu, rfl⟩
  · exact ⟨hp, powerOn_meets_inv hp⟩
  · have hrun : (s.runEngines s.sample).Inv := ⟨hp, engines_keeps_inv hb s.sample⟩
    obtain ⟨hp', hb'⟩ := hostStep_keeps_inv hrun hu
    exact ⟨hp', recordInput_keeps_inv hb' s.sample⟩

/-- Settles O51: only `INIT` and reset write `tx_oe` and `configured`, and each gives both the same value. -/
theorem stepKeepsParameters : Obligations.StepKeepsParameters := by
  intro s t h
  obtain ⟨hparams, hpad⟩ := step_params_pad h
  refine ⟨hparams, hpad, fun pin => ?_⟩
  rcases step_next_cases h with ⟨-, rfl⟩ | ⟨-, u, hu, rfl⟩
  · rfl
  · obtain ⟨hconf, -, hoe, -, -⟩ := engines_config s.params s.sample s.blk
    have pin' : (s.runEngines s.sample).blk.txOe = (s.runEngines s.sample).blk.configured :=
      hoe.trans (pin.trans hconf.symm)
    have pinAfter : u.blk.txOe = u.blk.configured := hostStep_pinDriven hu pin'
    exact pinAfter

/-- Settles O52: neither the engines nor a host step without `INIT` writes any of the four. -/
theorem onlyInitConfigures : Obligations.OnlyInitConfigures := by
  intro s t h hr noInit
  rcases step_next_cases h with ⟨hr', -⟩ | ⟨-, u, hu, rfl⟩
  · exact absurd (hr.symm.trans hr') (by decide)
  · obtain ⟨hconf, htop, hoe, hpu, -⟩ := engines_config s.params s.sample s.blk
    obtain ⟨hconf', htop', hoe', hpu'⟩ := hostStep_config hu noInit
    exact ⟨hconf'.trans hconf, htop'.trans htop, hoe'.trans hoe, hpu'.trans hpu⟩

end Sys2Proof.Machine

/-! # The FIFOs of 20_memory.md, the bytes they hold, and the paths of one byte through an engine

The modular counts of R41 are turned once into differences (`Fifo.count_eq`); push and pop then say what they do to the
list of the bytes held (R81). The two ten-event runs (R166, R202) follow a record that is written out after every event.
R89's same-cycle cases run the engines and then the command on the FIFO they leave. -/

namespace Sys2Proof.Machine

/-! ### Heads and counts -/

/-- A head moves to the next slot, or from the last slot to slot 0. -/
theorem nextHead_eq {n i : Nat} (h : i < n) : (i + 1) % n = if i + 1 = n then 0 else i + 1 := by
  split
  next e => rw [e, Nat.mod_self]
  next e => exact Nat.mod_eq_of_lt (by omega)

/-- The count of R41 without a remainder: the distance of the heads, once around if `head_in` has wrapped. -/
theorem Fifo.count_eq {n : Nat} {q : Fifo} (hin : q.headIn < n) (hout : q.headOut < n) :
    q.count n = if q.headOut ≤ q.headIn then q.headIn - q.headOut else q.headIn + n - q.headOut := by
  unfold Fifo.count
  split
  next => rw [Int.emod_eq_of_lt (by omega) (by omega)]; omega
  next =>
    rw [← Int.add_emod_right, Int.emod_eq_of_lt (by omega) (by omega)]
    omega

@[simp] theorem Fifo.length_contents (n : Nat) (q : Fifo) : (q.contents n).length = q.count n := by
  simp [Fifo.contents]

section Shape
variable {n : Nat} {q : Fifo} (hq : q.fits n = true)
include hq

theorem Fifo.heads_lt : q.headIn < n ∧ q.headOut < n := by
  obtain ⟨-, -, hin, hout⟩ := (Fifo.fits_iff n q).mp hq
  exact ⟨hin, hout⟩

theorem Fifo.count_lt : q.count n < n := by
  obtain ⟨hin, hout⟩ := Fifo.heads_lt hq
  rw [Fifo.count_eq hin hout]
  split <;> omega

theorem Fifo.heads_eq_iff_count : q.headIn = q.headOut ↔ q.count n = 0 := by
  obtain ⟨hin, hout⟩ := Fifo.heads_lt hq
  rw [Fifo.count_eq hin hout]
  split <;> omega

theorem Fifo.nextHead_eq_iff_count : (q.headIn + 1) % n = q.headOut ↔ q.count n = n - 1 := by
  obtain ⟨hin, hout⟩ := Fifo.heads_lt hq
  rw [Fifo.count_eq hin hout, nextHead_eq hin]
  split <;> split <;> omega

theorem Fifo.empty_iff_count : q.empty = true ↔ q.count n = 0 := by
  rw [← Fifo.heads_eq_iff_count hq, Fifo.empty, decide_eq_true_iff]

theorem Fifo.full_iff_count : q.full n = true ↔ q.count n = n - 1 := by
  rw [← Fifo.nextHead_eq_iff_count hq, Fifo.full, decide_eq_true_iff]

/-- The slot of the `k`-th byte held, the oldest being the 0-th; the slot after the newest is `head_in` (R81). -/
theorem Fifo.slot_eq_headIn_iff {k : Nat} (hk : k ≤ q.count n) :
    (q.headOut + k) % n = q.headIn ↔ k = q.count n := by
  obtain ⟨hin, hout⟩ := Fifo.heads_lt hq
  have hlt := Fifo.count_lt hq
  have hcount := Fifo.count_eq hin hout
  rcases Nat.lt_or_ge (q.headOut + k) n with h | h
  · rw [Nat.mod_eq_of_lt h]
    split at hcount <;> omega
  · rw [Nat.mod_eq_sub_mod h, Nat.mod_eq_of_lt (by omega)]
    split at hcount <;> omega

end Shape

/-! ### Push and pop on the bytes held -/

section PushPop
variable {n : Nat} {q q' : Fifo} {v : Byte} (hq : q.fits n = true)
include hq

theorem Fifo.count_push (hfull : q.full n = false) : (q.push n v).1.count n = q.count n + 1 := by
  obtain ⟨hin, hout⟩ := Fifo.heads_lt hq
  obtain ⟨hin', hout'⟩ := Fifo.heads_lt (Fifo.push_fits v hq)
  have hne : q.count n ≠ n - 1 := fun h => by simp [(Fifo.full_iff_count hq).mpr h] at hfull
  rw [Fifo.count_eq hin hout] at hne ⊢
  rw [Fifo.count_eq hin' hout']
  simp only [Fifo.push, hfull, Bool.false_eq_true, if_false, nextHead_eq hin]
  split at hne <;> split <;> split <;> omega

theorem Fifo.count_pop (hpop : q.pop n = some (v, q')) : q.count n = q'.count n + 1 := by
  obtain ⟨hin, hout⟩ := Fifo.heads_lt hq
  obtain ⟨hin', hout'⟩ := Fifo.heads_lt (Fifo.pop_fits hq hpop)
  rw [Fifo.count_eq hin' hout', Fifo.count_eq hin hout]
  rcases Fifo.pop_cases n q with ⟨-, e⟩ | ⟨he, e⟩ <;> rw [e] at hpop <;> cases hpop
  have hne : q.headIn ≠ q.headOut := by simpa [Fifo.empty] using he
  simp only [nextHead_eq hout]
  split <;> split <;> split <;> omega

/-- R76, R81: the slot a push writes holds none of the bytes held, and becomes that of the newest. -/
theorem Fifo.contents_push (hfull : q.full n = false) : (q.push n v).1.contents n = q.contents n ++ [v] := by
  obtain ⟨hwf, -⟩ := (Fifo.fits_iff n q).mp hq
  have hstorage : (q.push n v).1.storage = q.storage.write q.headIn v := by simp [Fifo.push, hfull]
  simp only [Fifo.contents, Fifo.count_push hq hfull, hstorage, Fifo.push_headOut, List.range_succ, List.map_append,
    List.map_singleton]
  congr 1
  · refine List.map_congr_left fun k hk => ?_
    have hlt := List.mem_range.mp hk
    exact Memory.read_write_ne _ v fun h => hlt.ne ((Fifo.slot_eq_headIn_iff hq hlt.le).mp h)
  · rw [(Fifo.slot_eq_headIn_iff hq le_rfl).mpr rfl, Memory.read_write _ _ _ _ hwf, if_pos rfl]

/-- R78, R81: the slot a pop reads is that of the oldest byte, and the ones after it keep their order. -/
theorem Fifo.contents_pop (hpop : q.pop n = some (v, q')) : q.contents n = v :: q'.contents n := by
  obtain ⟨-, hout⟩ := Fifo.heads_lt hq
  have hcount := Fifo.count_pop hq hpop
  rcases Fifo.pop_cases n q with ⟨-, e⟩ | ⟨-, e⟩ <;> rw [e] at hpop <;> cases hpop
  rw [Fifo.contents, hcount, List.range_succ_eq_map, List.map_cons, List.map_map]
  congr 1
  · rw [Nat.add_zero, Nat.mod_eq_of_lt hout]
  · refine List.map_congr_left fun k _ => ?_
    show q.storage.read ((q.headOut + (k + 1)) % n) = q.storage.read (((q.headOut + 1) % n + k) % n)
    rw [Nat.mod_add_mod, Nat.add_right_comm, Nat.add_assoc]

theorem Fifo.pop_none_iff : q.pop n = none ↔ q.contents n = [] := by
  rw [← List.length_eq_zero_iff, Fifo.length_contents, ← Fifo.empty_iff_count hq]
  rcases Fifo.pop_cases n q with ⟨he, e⟩ | ⟨he, e⟩ <;> simp [he, e]

/-- A byte pushed into an empty FIFO of two slots or more is the next one popped. -/
theorem Fifo.pop_push_of_empty (hn : 2 ≤ n) (he : q.empty = true) :
    ∃ r, (q.push n v).1.pop n = some (v, r) := by
  have hcount := (Fifo.empty_iff_count hq).mp he
  have hfull : q.full n = false := by
    rw [Bool.eq_false_iff, Ne, Fifo.full_iff_count hq]; omega
  have hnil : q.contents n = [] := List.length_eq_zero_iff.mp (by rw [Fifo.length_contents, hcount])
  have hone : (q.push n v).1.contents n = [v] := by rw [Fifo.contents_push hq hfull, hnil, List.nil_append]
  have hq' := Fifo.push_fits v hq
  cases hpop : (q.push n v).1.pop n with
  | none => rw [(Fifo.pop_none_iff hq').mp hpop] at hone; cases hone
  | some r =>
    obtain ⟨w, r⟩ := r
    rw [Fifo.contents_pop hq' hpop] at hone
    obtain ⟨rfl, -⟩ := List.cons_eq_cons.mp hone
    exact ⟨r, rfl⟩

/-- A full FIFO of two slots or more has a byte to give, and then room for another. -/
theorem Fifo.pop_of_full (hn : 2 ≤ n) (hfull : q.full n = true) :
    q.empty = false ∧ ({ q with headOut := (q.headOut + 1) % n } : Fifo).full n = false := by
  have hcount := (Fifo.full_iff_count hq).mp hfull
  have he : q.empty = false := by
    rw [Bool.eq_false_iff, Ne, Fifo.empty_iff_count hq]; omega
  have hpop : q.pop n = some (q.storage.read q.headOut, { q with headOut := (q.headOut + 1) % n }) := by
    simp [Fifo.pop, he]
  refine ⟨he, ?_⟩
  have hcount' := Fifo.count_pop hq hpop
  rw [Bool.eq_false_iff, Ne, Fifo.full_iff_count (Fifo.pop_fits hq hpop)]
  omega

end PushPop

/-- Settles O44: a push is refused exactly at `N - 1` bytes, and otherwise appends (`Fifo.contents_push`). -/
theorem pushAppends : Obligations.PushAppends := by
  intro n q v _ hq
  constructor
  · intro hcount
    simp [Fifo.push, (Fifo.full_iff_count hq).mpr hcount]
  · intro hcount
    have hfull : q.full n = false := by rwa [Bool.eq_false_iff, Ne, Fifo.full_iff_count hq]
    exact ⟨by simp [hfull], Fifo.contents_push hq hfull⟩

/-- Settles O45: a pop takes the head of the list of the bytes held (`Fifo.contents_pop`). -/
theorem popTakesTheOldest : Obligations.PopTakesTheOldest :=
  fun _ _ _ hq => ⟨Fifo.pop_none_iff hq, fun _ _ hpop => Fifo.contents_pop hq hpop⟩

/-- Settles O46: the count is a remainder modulo N, and the bytes given back are that many. -/
theorem capacityIsOneLessThanTheSlots : Obligations.CapacityIsOneLessThanTheSlots := by
  intro n q _ hq
  rw [Fifo.length_contents]
  exact ⟨Nat.le_sub_one_of_lt (Fifo.count_lt hq), Fifo.heads_eq_iff_count hq, Fifo.nextHead_eq_iff_count hq, rfl⟩

/-! ### The byte on its way out: ten Tx ticks -/

/-- The record after the start tick of `v` and `k` data ticks (R162, R163), `b` being the record before the frame and
`q` what its pop left: bit `8 - k` is on the line, and `8 - k` bits are to come. -/
def sendingBlock (v : Byte) (q : Fifo) (b : Block) (k : Nat) : Block :=
  { b with
    txq := q
    txSr := v <<< k
    txOut := if k = 0 then false else v.getLsbD (8 - k)
    txBits := BitVec.ofNat 4 (8 - k)
    txState := if k = 8 then .awaitingStop else .shiftingData }

/-- The bits to come, counted down in 4 bits: 0 is reached at the eighth data bit and not before. -/
theorem bitsLeft_sub_one {k : Nat} (hk : k < 8) :
    BitVec.ofNat 4 (8 - k) - 1#4 = BitVec.ofNat 4 (8 - (k + 1)) ∧
      (BitVec.ofNat 4 (8 - (k + 1)) = 0#4 ↔ k + 1 = 8) := by
  interval_cases k <;> decide

theorem txStep_start {p : Params} {b : Block} {v : Byte} {q : Fifo} (hs : b.txState = .awaitingStart)
    (hpop : b.txq.pop p.txFifoN = some (v, q)) : txStep p b = sendingBlock v q b 0 := by
  simp [txStep, hs, hpop, txStart, sendingBlock]

theorem txStep_sendingBlock (p : Params) (v : Byte) (q : Fifo) (b : Block) {k : Nat} (hk : k < 8) :
    txStep p (sendingBlock v q b k) = sendingBlock v q b (k + 1) := by
  obtain ⟨hbits, hlast⟩ := bitsLeft_sub_one hk
  have hstate : (sendingBlock v q b k).txState = .shiftingData := if_neg hk.ne
  have hbit : (v <<< k).getLsbD 7 = v.getLsbD (8 - (k + 1)) := by
    rw [BitVec.getLsbD_shiftLeft, show 8 - (k + 1) = 7 - k by omega]
    simp [show ¬ 7 < k by omega]
  have hdata : txStep p (sendingBlock v q b k) = txData (sendingBlock v q b k) := by simp only [txStep, hstate]
  rw [hdata]
  simp only [txData, sendingBlock, hbit, hbits, hlast, ← BitVec.shiftLeft_add, if_neg (Nat.succ_ne_zero k)]

/-- The start tick and `k` data ticks (R165). -/
theorem txStep_iterate_frame {p : Params} {b : Block} {v : Byte} {q : Fifo} (hs : b.txState = .awaitingStart)
    (hpop : b.txq.pop p.txFifoN = some (v, q)) :
    ∀ k ≤ 8, (txStep p)^[k + 1] b = sendingBlock v q b k := by
  intro k hk
  induction k with
  | zero => exact txStep_start hs hpop
  | succ k ih =>
    rw [Function.iterate_succ_apply', ih (by omega), txStep_sendingBlock p v q b (by omega)]

/-- Settles O35: nine ticks send the start bit and the data bits (`txStep_iterate_frame`), the tenth the stop bit. -/
theorem tenTicksSendOneByte : Obligations.TenTicksSendOneByte := by
  intro p b v q hs hpop
  have frame := txStep_iterate_frame hs hpop
  have stop : (txStep p)^[10] b =
      { b with txq := q, txSr := 0#8, txBits := 0#4, txOut := true, txState := .awaitingStart } := by
    have hsr : v <<< 8 = 0#8 := BitVec.shiftLeft_eq_zero le_rfl
    rw [Function.iterate_succ_apply', frame 8 le_rfl]
    simp [txStep, txStop, sendingBlock, hsr]
  refine ⟨?_, stop⟩
  have levels : (List.range 9).map (fun k => ((txStep p)^[k + 1] b).txOut) =
      (List.range 9).map fun k => (sendingBlock v q b k).txOut :=
    List.map_congr_left fun k hk => by rw [frame k (Nat.le_of_lt_succ (List.mem_range.mp hk))]
  rw [List.range_succ, List.map_append, levels, List.map_singleton, stop]
  rfl

/-! ### The byte on its way in: ten sampler firings -/

/-- The record after the mid-start firing and `k < 8` data samples of `v` (R195, R196), `b` being the record before:
the accumulator holds the first `k` bits of `v`. -/
def receivingBlock (v : Byte) (b : Block) (k : Nat) : Block :=
  { b with rxState := .shiftingData, rxBits := BitVec.ofNat 4 (8 - k), rxAcc := v >>> (8 - k) }

/-- Shifting in the next bit of `v` after its first `k` gives its first `k + 1`. -/
theorem shiftIn_next_bit (v : Byte) {k : Nat} (hk : k < 8) :
    shiftIn (v >>> (8 - k)) (v.getLsbD (7 - k)) = v >>> (7 - k) := by
  refine BitVec.eq_of_getLsbD_eq fun i hi => ?_
  rcases Nat.eq_zero_or_pos i with rfl | h
  · simp [shiftIn]
  · simp [shiftIn, hi, show i ≠ 0 by omega, show 8 - k + (i - 1) = 7 - k + i by omega]

theorem rxStep_start {p : Params} {b : Block} (v : Byte) (x : Bool) (hs : b.rxState = .awaitingStart) :
    rxStep p x b = receivingBlock v b 0 := by
  have hacc : v >>> 8 = 0#8 := BitVec.ushiftRight_eq_zero le_rfl
  simp [rxStep, hs, rxMidStart, receivingBlock, hacc]

theorem rxStep_receivingBlock (p : Params) (v : Byte) (b : Block) {k : Nat} (hk : k < 7) :
    rxStep p (v.getLsbD (7 - k)) (receivingBlock v b k) = receivingBlock v b (k + 1) := by
  obtain ⟨hbits, hlast⟩ := bitsLeft_sub_one (k := k) (by omega)
  have hmore : BitVec.ofNat 4 (8 - (k + 1)) ≠ 0#4 := fun h => by have := hlast.mp h; omega
  have hacc := shiftIn_next_bit v (k := k) (by omega)
  simp only [rxStep, receivingBlock, rxData, hbits, hmore, hacc, if_false]
  rw [show 8 - (k + 1) = 7 - k by omega]

/-- The first `k` data samples, bit 7 first. -/
theorem rxStep_foldl_frame (p : Params) (v : Byte) (b : Block) :
    ∀ k ≤ 7, ((List.range k).map fun i => v.getLsbD (7 - i)).foldl (fun c r => rxStep p r c) (receivingBlock v b 0) =
      receivingBlock v b k := by
  intro k hk
  induction k with
  | zero => rfl
  | succ k ih =>
    rw [List.range_succ, List.map_append, List.foldl_append, ih (by omega)]
    exact rxStep_receivingBlock p v b (by omega)

/-- The eighth data sample completes and pushes the byte, and the mid-stop firing re-arms the detector, whatever its
level (R196–R199). -/
theorem rxStep_last_bit_and_stop (p : Params) (v : Byte) (b : Block) (y : Bool) :
    rxStep p y (rxStep p (v.getLsbD 0) (receivingBlock v b 7)) =
      { b with
        rxq := (b.rxq.push p.rxFifoN v).1
        rxAcc := v
        rxBits := 0#4
        rxState := .awaitingStart
        rxSampEn := false
        rxDetEn := true } := by
  have hacc : shiftIn (v >>> 1) (v.getLsbD 0) = v := by simpa using shiftIn_next_bit v (k := 7) (by omega)
  simp [rxStep, receivingBlock, rxData, rxMidStop, hacc, -BitVec.getLsbD_eq_getElem]

/-- Settles O40: the mid-start firing, seven data samples (`rxStep_foldl_frame`), then the eighth and the mid-stop
firing. -/
theorem tenFiringsReceiveOneByte : Obligations.TenFiringsReceiveOneByte := by
  intro p b v x y hs
  have samples : [x, v.getLsbD 7, v.getLsbD 6, v.getLsbD 5, v.getLsbD 4, v.getLsbD 3, v.getLsbD 2, v.getLsbD 1,
      v.getLsbD 0, y] = x :: ((List.range 7).map fun i => v.getLsbD (7 - i)) ++ [v.getLsbD 0, y] := rfl
  rw [samples, List.cons_append, List.foldl_cons, rxStep_start v x hs, List.foldl_append,
    rxStep_foldl_frame p v b 7 le_rfl]
  exact rxStep_last_bit_and_stop p v b y

/-! ### A command on the FIFOs its cycle's engines leave (R89) -/

/-- A legal capacity has two slots (R71). -/
theorem two_le_of_legalCapacity {n : Nat} (h : legalCapacity n = true) : 2 ≤ n := by
  obtain ⟨h2, -⟩ := of_decide_eq_true h
  exact h2

/-- A TRYPUT word decodes to the command it was assembled from (R101, R103). -/
theorem decode_encode_tryput (data : Byte) : decode (encode (.tryput data)) = .instr (.tryput data) := by
  have hop : opField (encode (.tryput data)) = 0x2#4 := by
    refine BitVec.eq_of_getLsbD_eq fun i hi => ?_
    interval_cases i <;> simp [opField, encode_tryput_getLsbD, -BitVec.getLsbD_eq_getElem]
  have hreserved : (encode (.tryput data)).extractLsb' 8 20 = 0#20 := by
    refine BitVec.eq_of_getLsbD_eq fun i hi => ?_
    simp [encode_tryput_getLsbD, show 8 + i ≠ 29 by omega]
  have hdata : dataField (encode (.tryput data)) = data := by
    refine BitVec.eq_of_getLsbD_eq fun i hi => ?_
    simp [dataField, encode_tryput_getLsbD, hi]
  simp [decode, hop, hreserved, hdata]

/-- A step of a good state with the reset released is R260's cycle. -/
theorem step_of_inv {s : State} (hs : s.Inv) (hr : s.ports.1 = true) : step s = liveCycle s := by
  obtain ⟨hp, hb⟩ := hs
  simp [step, runCycle, hp, hb.fits, hr]

/-- A step of a good state that presents a command runs the command on the state the engines leave (R220). -/
theorem step_of_command {s u : State} {c : Word} {i : Instr} (hs : s.Inv) (hports : s.ports = (true, some c))
    (hd : decode c = .instr i) (h : exec i (s.runEngines s.sample) = .next u) :
    step s = .next (u.endCycle s.sample) := by
  rw [step_of_inv hs (by rw [hports])]
  simp [liveCycle, hports, hostStep, hd, h]

/-- Neither Rx event writes what the Tx engine has left in `txq` and `tx_sr` (R265). -/
theorem configuredEngines_txq_txSr {p : Params} {b : Block} (r : Bool) (one : b.rxDetEn = !b.rxSampEn) :
    (configuredEngines p r b).txq = (afterTx p b).txq ∧ (configuredEngines p r b).txSr = (afterTx p b).txSr := by
  rcases configuredEngines_cases (p := p) r one with ⟨-, e⟩ | ⟨-, e⟩ | e <;> rw [e]
  · exact ⟨rfl, rfl⟩
  · rw [rxStep_frame]; exact ⟨rfl, rfl⟩
  · exact ⟨rfl, rfl⟩

/-- The timer and the Tx engine leave what a sampler firing reads (R265). -/
theorem afterTx_rx (p : Params) (b : Block) :
    (afterTx p b).rxState = b.rxState ∧ (afterTx p b).rxBits = b.rxBits ∧ (afterTx p b).rxAcc = b.rxAcc ∧
      (afterTx p b).rxq = b.rxq := by
  have ht : (timerStep p b).rxState = b.rxState ∧ (timerStep p b).rxBits = b.rxBits ∧
      (timerStep p b).rxAcc = b.rxAcc ∧ (timerStep p b).rxq = b.rxq := by
    rw [timerStep_frame]; simp
  unfold afterTx
  split
  · rw [txStep_frame]; exact ht
  · exact ht

/-- The Tx tick of a cycle in `AwaitingStart` with a byte in `txq` takes the byte into `tx_sr` (R162). -/
theorem afterTx_start {p : Params} {b : Block} (hfire : txFire p b = true) (hs : b.txState = .awaitingStart)
    (he : b.txq.empty = false) :
    (afterTx p b).txq = { b.txq with headOut := (b.txq.headOut + 1) % p.txFifoN } ∧
      (afterTx p b).txSr = b.txq.storage.read b.txq.headOut := by
  rw [afterTx, if_pos hfire, timerStep_frame]
  simp [txStep, hs, Fifo.pop, he, txStart]

/-- A sampler firing comes after the timer and the Tx engine, no edge being detected in its cycle (R61). -/
theorem configuredEngines_of_rxFire {p : Params} {b : Block} (r : Bool) (one : b.rxDetEn = !b.rxSampEn)
    (hfire : rxFire p b = true) : configuredEngines p r b = rxStep p r (afterTx p b) := by
  have hsamp : b.rxSampEn = true := (Bool.and_eq_true_iff.mp hfire).2
  have hedge : edge r b = false := by simp [edge, one, hsamp]
  simp [configuredEngines, hfire, hedge, afterTx]

/-- The eighth data sample pushes the byte it completes (R196). -/
theorem rxStep_last_bit_rxq {p : Params} {b : Block} (r : Bool) (hs : b.rxState = .shiftingData)
    (hbits : b.rxBits = 1#4) : (rxStep p r b).rxq = (b.rxq.push p.rxFifoN (shiftIn b.rxAcc r)).1 := by
  simp [rxStep, hs, rxData, hbits]

theorem shiftIn_eq (acc : Byte) (r : Bool) : shiftIn acc r = acc <<< 1 ||| (if r then 1#8 else 0#8) := by
  cases r <;> rfl

/-- An OK answer that carries a byte and no flag is the byte (R110). -/
theorem respond_byte (v : Byte) : respond .ok false v = v.setWidth 32 := by
  refine BitVec.eq_of_getLsbD_eq fun i hi => ?_
  rw [respond_getLsbD, BitVec.getLsbD_setWidth]
  by_cases h : i < 8
  · simp [h, hi]
  · simp [h, statusCode, BitVec.getLsbD_of_ge v i (by omega)]

/-- A TRYPUT on a configured block whose `txq` has room is accepted (R226). -/
theorem exec_tryput_accepted {s : State} (data : Byte) (hc : s.blk.configured = true)
    (hfull : s.blk.txq.full s.params.txFifoN = false) :
    exec (.tryput data) s =
      .next (s.answer (putBlock s.blk (s.blk.txq.push s.params.txFifoN data).1 true) .ok true 0#8) := by
  simp [exec, execTryput, whenConfigured, hc, hfull]

/-- A TRYGET on a configured block answers the byte popped (R230). -/
theorem exec_tryget_popped {s : State} {v : Byte} {q : Fifo} (hc : s.blk.configured = true)
    (hpop : s.blk.rxq.pop s.params.rxFifoN = some (v, q)) :
    exec .tryget s = .next (s.answer { s.blk with rxq := q } .ok false v) := by
  simp [exec, execTryget, whenConfigured, hc, hpop]

/-- Settles O22: the start tick pops before the command runs, and so leaves the TRYPUT a slot. -/
theorem tryputIntoSlotFreedInItsCycle : Obligations.TryputIntoSlotFreedInItsCycle := by
  intro s data hs hports hc hfire hstate hfull
  obtain ⟨hp, hb⟩ := hs
  obtain ⟨-, hcap, -⟩ := (legalParams_iff s.params).mp hp
  obtain ⟨-, hfits, -⟩ := (Block.fits_iff s.params s.blk).mp hb.fits
  obtain ⟨hne, hroom⟩ := Fifo.pop_of_full hfits (two_le_of_legalCapacity hcap) hfull
  obtain ⟨htxq, hsr⟩ := configuredEngines_txq_txSr (p := s.params) s.sample (hb.oneRxEvent hc)
  obtain ⟨htxq', hsr'⟩ := afterTx_start hfire hstate hne
  have hengines : engines s.params s.sample s.blk = configuredEngines s.params s.sample s.blk := by
    simp [engines, hc]
  obtain ⟨hconf, -⟩ := engines_config s.params s.sample s.blk
  have hexec := exec_tryput_accepted (s := s.runEngines s.sample) data (hconf.trans hc)
    (by simpa [hengines, htxq, htxq'] using hroom)
  refine ⟨_, step_of_command ⟨hp, hb⟩ hports (decode_encode_tryput data) hexec, ?_, ?_⟩
  · rw [State.endCycle_rsp, State.answer_rsp]
    decide
  · simp [putBlock_frame, hengines, hsr, hsr']

/-- Settles O23: the eighth sample pushes before the command runs, and the TRYGET pops that byte. -/
theorem trygetOfByteCompletedInItsCycle : Obligations.TrygetOfByteCompletedInItsCycle := by
  intro s hs hports hc hfire hstate hbits hempty
  obtain ⟨hp, hb⟩ := hs
  obtain ⟨-, -, hcap⟩ := (legalParams_iff s.params).mp hp
  obtain ⟨-, -, hfits⟩ := (Block.fits_iff s.params s.blk).mp hb.fits
  obtain ⟨hstate', hbits', hacc, hrxq⟩ := afterTx_rx s.params s.blk
  have hpushed : (engines s.params s.sample s.blk).rxq =
      (s.blk.rxq.push s.params.rxFifoN (shiftIn s.blk.rxAcc s.sample)).1 := by
    rw [engines, if_pos hc, configuredEngines_of_rxFire _ (hb.oneRxEvent hc) hfire,
      rxStep_last_bit_rxq _ (hstate'.trans hstate) (hbits'.trans hbits), hacc, hrxq]
  obtain ⟨q, hpop⟩ := Fifo.pop_push_of_empty (v := shiftIn s.blk.rxAcc s.sample) hfits
    (two_le_of_legalCapacity hcap) hempty
  obtain ⟨hconf, -⟩ := engines_config s.params s.sample s.blk
  have hexec := exec_tryget_popped (s := s.runEngines s.sample) (hconf.trans hc)
    ((congrArg (Fifo.pop _) hpushed).trans hpop)
  refine ⟨_, step_of_command ⟨hp, hb⟩ hports (by decide) hexec, ?_⟩
  rw [State.endCycle_rsp, State.answer_rsp, respond_byte, shiftIn_eq]

/-! ### Every step goes on -/

/-- Settles O50: a reset cycle answers a next state, and so does the host step of any other (`hostStep_next`). -/
theorem blockNeverStops : Obligations.BlockNeverStops := by
  intro s hs
  obtain ⟨hp, hb⟩ := hs
  rcases step_cases s with ⟨hp', -⟩ | ⟨-, hfits, -⟩ | ⟨-, -, -, e⟩ | ⟨-, -, -, e⟩
  · exact absurd (hp.symm.trans hp') (by decide)
  · exact absurd (hb.fits.symm.trans hfits) (by decide)
  · exact ⟨_, e⟩
  · obtain ⟨u, hu, -⟩ := hostStep_next s.ports.2 (s.runEngines s.sample)
    exact ⟨_, by rw [e, liveCycle, hu, mapNext_next]⟩

end Sys2Proof.Machine

/-! # The encoding of 30_encoding.md: words, commands, answers and host programs

A legal word is a number: the opcode times 2^28 plus the operand. Both the decoder (`decode_eq_init_iff` and its
siblings) and the encoder (`encode_init_toNat`, `encode_tryput_toNat`) are read as that number once, and they agree
because the numbers do (`decode_eq_instr_iff`). -/

namespace Sys2Proof.Machine

/-! ### The word of a command, as a number -/

/-- Two fields side by side, as a number. -/
theorem append_toNat_eq_add {m n : Nat} (x : BitVec m) (y : BitVec n) :
    (x ++ y).toNat = x.toNat * 2 ^ n + y.toNat := by
  rw [BitVec.toNat_append, ← Nat.shiftLeft_add_eq_or_of_lt y.isLt, Nat.shiftLeft_eq]

theorem encode_init_toNat (baud : Nat) : (encode (.init baud)).toNat = 1 * 2 ^ 28 + baud % 2 ^ 24 := by
  show BitVec.toNat (w := 4 + 4 + 24) (0x1#4 ++ 0x0#4 ++ BitVec.ofNat 24 baud) = _
  rw [append_toNat_eq_add, append_toNat_eq_add]
  simp

theorem encode_tryput_toNat (data : Byte) : (encode (.tryput data)).toNat = 2 * 2 ^ 28 + data.toNat := by
  show BitVec.toNat (w := 4 + 20 + 8) (0x2#4 ++ 0x0#20 ++ data) = _
  rw [append_toNat_eq_add, append_toNat_eq_add]
  simp

theorem encode_tryget_toNat : (encode .tryget).toNat = 3 * 2 ^ 28 := by decide

theorem encode_isbusy_toNat : (encode .isbusy).toNat = 4 * 2 ^ 28 := by decide

/-- A field of a word, as a number. -/
theorem field_eq_iff (c : Word) (start len : Nat) (v : BitVec len) :
    c.extractLsb' start len = v ↔ c.toNat / 2 ^ start % 2 ^ len = v.toNat := by
  rw [← BitVec.toNat_inj, BitVec.extractLsb'_toNat, Nat.shiftRight_eq_div_pow]

/-- The bits of a word above its low `k`, selected by R103's masks. -/
theorem and_highMask_toNat (c : Word) (k : Nat) :
    (c &&& BitVec.allOnes 32 <<< k).toNat = c.toNat / 2 ^ k * 2 ^ k := by
  have hle : c.toNat / 2 ^ k * 2 ^ k ≤ c.toNat := Nat.div_mul_le_self _ _
  rw [← BitVec.shiftLeft_ushiftRight, BitVec.toNat_shiftLeft, BitVec.toNat_ushiftRight, Nat.shiftRight_eq_div_pow,
    Nat.shiftLeft_eq, Nat.mod_eq_of_lt (by omega)]

/-! ### What the decoder reads -/

section Decode
variable (c : Word)

/-- R103, R105: the decoder first looks at the opcode. -/
theorem opField_cases :
    opField c = 0x1#4 ∨ opField c = 0x2#4 ∨ opField c = 0x3#4 ∨ opField c = 0x4#4 ∨
      (opField c = 0x0#4 ∨ 0x5#4 ≤ opField c) := by
  have every : ∀ op : BitVec 4, op = 0x1#4 ∨ op = 0x2#4 ∨ op = 0x3#4 ∨ op = 0x4#4 ∨ (op = 0x0#4 ∨ 0x5#4 ≤ op) := by
    decide
  exact every _

variable {c}

theorem decode_initOp (h : opField c = 0x1#4) :
    decode c = if c.extractLsb' 24 4 = 0#4 then .instr (.init (baudField c)) else .illegal .initReservedBits := by
  simp [decode, h]

theorem decode_tryputOp (h : opField c = 0x2#4) :
    decode c = if c.extractLsb' 8 20 = 0#20 then .instr (.tryput (dataField c)) else .illegal .tryputReservedBits := by
  simp [decode, h]

theorem decode_trygetOp (h : opField c = 0x3#4) :
    decode c = if c.extractLsb' 0 28 = 0#28 then .instr .tryget else .illegal .operandBits := by
  simp [decode, h]

theorem decode_isbusyOp (h : opField c = 0x4#4) :
    decode c = if c.extractLsb' 0 28 = 0#28 then .instr .isbusy else .illegal .operandBits := by
  simp [decode, h]

theorem reservedOp_ne (h : opField c = 0x0#4 ∨ 0x5#4 ≤ opField c) :
    opField c ≠ 0x1#4 ∧ opField c ≠ 0x2#4 ∧ opField c ≠ 0x3#4 ∧ opField c ≠ 0x4#4 := by
  have every : ∀ op : BitVec 4, op = 0x0#4 ∨ 0x5#4 ≤ op → op ≠ 0x1#4 ∧ op ≠ 0x2#4 ∧ op ≠ 0x3#4 ∧ op ≠ 0x4#4 := by
    decide
  exact every _ h

theorem decode_reservedOp (h : opField c = 0x0#4 ∨ 0x5#4 ≤ opField c) : decode c = .illegal .reservedOp := by
  simp [decode, reservedOp_ne h]

/-- The fields of a command's word (R101, R102): the opcode, zeros, and the operand at the low end. -/
def HasFieldsOf (c : Word) : Instr → Prop
  | .init baud => opField c = 0x1#4 ∧ c.extractLsb' 24 4 = 0#4 ∧ baudField c = baud
  | .tryput data => opField c = 0x2#4 ∧ c.extractLsb' 8 20 = 0#20 ∧ dataField c = data
  | .tryget => opField c = 0x3#4 ∧ c.extractLsb' 0 28 = 0#28
  | .isbusy => opField c = 0x4#4 ∧ c.extractLsb' 0 28 = 0#28

variable (c)

/-- The decoder reads a command from a word exactly when the word has the command's fields (R103, R104). -/
theorem decode_eq_instr_iff_fields (i : Instr) : decode c = .instr i ↔ HasFieldsOf c i := by
  rcases opField_cases c with h | h | h | h | h
  · rw [decode_initOp h]
    split <;> cases i <;> simp [HasFieldsOf, *]
  · rw [decode_tryputOp h]
    split <;> cases i <;> simp [HasFieldsOf, *]
  · rw [decode_trygetOp h]
    split <;> cases i <;> simp [HasFieldsOf, *]
  · rw [decode_isbusyOp h]
    split <;> cases i <;> simp [HasFieldsOf, *]
  · rw [decode_reservedOp h]
    cases i <;> simp [HasFieldsOf, reservedOp_ne h]

theorem decode_eq_init_iff (baud : Nat) :
    decode c = .instr (.init baud) ↔ c.toNat = 1 * 2 ^ 28 + baud ∧ baud < 2 ^ 24 := by
  rw [decode_eq_instr_iff_fields, HasFieldsOf, opField, field_eq_iff, field_eq_iff, baudField,
    BitVec.extractLsb'_toNat, Nat.shiftRight_eq_div_pow]
  simp only [BitVec.toNat_ofNat]
  omega

theorem decode_eq_tryput_iff (data : Byte) :
    decode c = .instr (.tryput data) ↔ c.toNat = 2 * 2 ^ 28 + data.toNat := by
  rw [decode_eq_instr_iff_fields, HasFieldsOf, opField, dataField, field_eq_iff, field_eq_iff, field_eq_iff]
  simp only [BitVec.toNat_ofNat]
  omega

theorem decode_eq_tryget_iff : decode c = .instr .tryget ↔ c.toNat = 3 * 2 ^ 28 := by
  rw [decode_eq_instr_iff_fields, HasFieldsOf, opField, field_eq_iff, field_eq_iff]
  simp only [BitVec.toNat_ofNat]
  omega

theorem decode_eq_isbusy_iff : decode c = .instr .isbusy ↔ c.toNat = 4 * 2 ^ 28 := by
  rw [decode_eq_instr_iff_fields, HasFieldsOf, opField, field_eq_iff, field_eq_iff]
  simp only [BitVec.toNat_ofNat]
  omega

/-- R101–R104: a word decodes as a command exactly when it is the word of that command and the command can be
encoded. -/
theorem decode_eq_instr_iff (i : Instr) : decode c = .instr i ↔ encode i = c ∧ WellFormed i := by
  rw [← BitVec.toNat_inj]
  cases i with
  | init baud =>
    rw [decode_eq_init_iff, encode_init_toNat, WellFormed, wellFormed, decide_eq_true_eq]
    omega
  | tryput data => simp [decode_eq_tryput_iff, encode_tryput_toNat, wellFormed, eq_comm]
  | tryget => simp [decode_eq_tryget_iff, encode_tryget_toNat, wellFormed, eq_comm]
  | isbusy => simp [decode_eq_isbusy_iff, encode_isbusy_toNat, wellFormed, eq_comm]

end Decode

/-- Settles O4, the word of a command being that command's word. -/
theorem decodeOfEncode : Obligations.DecodeOfEncode :=
  fun i hi => (decode_eq_instr_iff (encode i) i).mpr ⟨rfl, hi⟩

/-- Settles O5, the other direction of `decode_eq_instr_iff`. -/
theorem encodeOfDecode : Obligations.EncodeOfDecode :=
  fun c i => (decode_eq_instr_iff c i).mp

/-- Settles O3: it is how the decoder is read as a number. -/
theorem operandsAreTheLowFields : Obligations.OperandsAreTheLowFields :=
  fun c => ⟨fun baud => (decode_eq_init_iff c baud).mp, fun data => (decode_eq_tryput_iff c data).mp⟩

/-! ### The masks of R103 -/

/-- Every mask of R103's table keeps the opcode, so a word that matches a row has the row's opcode. -/
theorem opField_of_matches {row : OpRow} (hrow : row ∈ opTable) {c : Word} (h : row.matches c = true) :
    opField c = opField row.pattern := by
  have opcodeKept : ∀ row ∈ opTable, opField row.mask = BitVec.allOnes 4 := by decide
  rw [← eq_of_beq h]
  calc opField c = opField c &&& opField row.mask := by rw [opcodeKept row hrow, BitVec.and_allOnes]
    _ = opField (c &&& row.mask) := BitVec.extractLsb'_and.symm

/-- The rows of R103's table have four different opcodes. -/
theorem opTable_opField_injective : ∀ x ∈ opTable, ∀ y ∈ opTable, opField x.pattern = opField y.pattern → x = y := by
  decide

/-- A masked comparison of R103, as a number: `k` is how many low bits the mask leaves out. -/
theorem and_mask_eq_iff (c mask pattern : Word) (k : Nat) (hmask : mask = BitVec.allOnes 32 <<< k) :
    c &&& mask = pattern ↔ c.toNat / 2 ^ k * 2 ^ k = pattern.toNat := by
  rw [← BitVec.toNat_inj, hmask, and_highMask_toNat]

/-- Settles O1: rows differ in the opcode, and each mask comparison is the number the decoder reads. -/
theorem wordIsCommandExactlyByMask : Obligations.WordIsCommandExactlyByMask := by
  refine ⟨fun c x y hx hy mx my => ?_, fun c => ⟨?_, ?_, ?_, ?_⟩⟩
  · exact opTable_opField_injective x hx y hy ((opField_of_matches hx mx).symm.trans (opField_of_matches hy my))
  · simp only [decode_eq_init_iff, and_mask_eq_iff c 0xFF000000#32 _ 24 rfl, BitVec.toNat_ofNat]
    constructor
    · rintro ⟨baud, h, hlt⟩
      omega
    · intro h
      exact ⟨c.toNat % 2 ^ 24, by omega, by omega⟩
  · simp only [decode_eq_tryput_iff, and_mask_eq_iff c 0xFFFFFF00#32 _ 8 rfl, BitVec.toNat_ofNat]
    constructor
    · rintro ⟨data, h⟩
      omega
    · intro h
      exact ⟨BitVec.ofNat 8 c.toNat, by rw [BitVec.toNat_ofNat]; omega⟩
  · rw [decode_eq_tryget_iff, and_mask_eq_iff c 0xFFFFFFFF#32 _ 0 rfl, BitVec.toNat_ofNat]
    omega
  · rw [decode_eq_isbusy_iff, and_mask_eq_iff c 0xFFFFFFFF#32 _ 0 rfl, BitVec.toNat_ofNat]
    omega

/-- Settles O2, opcode by opcode. -/
theorem illegalWordsAreTheFourCases : Obligations.IllegalWordsAreTheFourCases := by
  intro c
  rw [← opField]
  rcases opField_cases c with h | h | h | h | h
  · rw [decode_initOp h]
    split <;> simp [*]
  · rw [decode_tryputOp h]
    split <;> simp [*]
  · rw [decode_trygetOp h]
    split <;> simp [*]
  · rw [decode_isbusyOp h]
    split <;> simp [*]
  · exact iff_of_true ⟨_, decode_reservedOp h⟩ (.inl h)

/-- Settles O6: each word is evaluated. -/
theorem wordsOfTheVectorsDecode : Obligations.WordsOfTheVectorsDecode := by
  unfold Obligations.WordsOfTheVectorsDecode
  decide

/-! ### The status of an answer (R111) -/

/-- R235: every command but `INIT` is guarded by `configured`, and on a configured block it answers OK. -/
theorem exec_eq_whenConfigured {i : Instr} (hi : ∀ baud, i ≠ .init baud) (s : State) :
    ∃ b f d, exec i s = whenConfigured s (s.answer b .ok f d) := by
  cases i with
  | init baud => exact absurd rfl (hi baud)
  | tryput data => exact ⟨_, _, _, rfl⟩
  | tryget =>
    simp only [exec, execTryget]
    split
    · exact ⟨_, _, _, rfl⟩
    · exact ⟨_, _, _, rfl⟩
  | isbusy => exact ⟨_, _, _, rfl⟩

/-- A guarded command answers OK on a configured block; on another it answers ERR_NOINIT and leaves the record. -/
theorem exec_guarded_status {i : Instr} {s t : State} (hi : ∀ baud, i ≠ .init baud) (h : exec i s = .next t) :
    (s.blk.configured = true ∧ rspStatus t.rsp = 0#4) ∨
    (s.blk.configured = false ∧ rspStatus t.rsp = 2#4 ∧ t.blk = s.blk) := by
  obtain ⟨b, f, d, e⟩ := exec_eq_whenConfigured hi s
  rw [e] at h
  rcases whenConfigured_cases s (s.answer b .ok f d) with ⟨hc, e⟩ | ⟨hc, e⟩ <;> rw [e] at h <;> cases h
  · exact .inl ⟨hc, by simp [statusCode]⟩
  · exact .inr ⟨hc, by simp [statusCode], rfl⟩

/-- `INIT` answers OK for a baud that R133 accepts; for another it answers ERR_BAUD and leaves the record. -/
theorem exec_init_status {baud : Nat} {s t : State} (h : exec (.init baud) s = .next t) :
    (legalBaud s.params baud = true ∧ rspStatus t.rsp = 0#4) ∨
    (legalBaud s.params baud = false ∧ rspStatus t.rsp = 3#4 ∧ t.blk = s.blk) := by
  simp only [exec, execInit] at h
  split at h <;> cases h
  next hl => exact .inl ⟨hl, by simp [statusCode]⟩
  next hl => exact .inr ⟨by simpa using hl, by simp [statusCode], rfl⟩

theorem hostStep_illegal {c : Word} {why : IllegalWord} (s : State) (hd : decode c = .illegal why) :
    hostStep (some c) s = .next s.illegal := by
  simp [hostStep, hd]

theorem hostStep_instr {c : Word} {i : Instr} (s : State) (hd : decode c = .instr i) :
    hostStep (some c) s = exec i s := by
  simp [hostStep, hd]

/-- Settles O13, by what the word decodes as: nothing, an `INIT`, or a command that asks for a configured block. -/
theorem statusPriority : Obligations.StatusPriority := by
  intro c s t h
  cases hd : decode c with
  | illegal why =>
    rw [hostStep_illegal s hd] at h
    cases h
    simp [statusCode]
  | instr i =>
    rw [hostStep_instr s hd] at h
    by_cases hi : ∃ baud, i = .init baud
    · obtain ⟨baud, rfl⟩ := hi
      rcases exec_init_status h with ⟨hl, hst⟩ | ⟨hl, hst, hblk⟩
      · simp [hl, hst]
      · simp [hl, hst, hblk]
    · have hi : ∀ baud, i ≠ .init baud := fun baud e => hi ⟨baud, e⟩
      rcases exec_guarded_status hi h with ⟨hc, hst⟩ | ⟨hc, hst, hblk⟩
      · simp [hc, hst, hi]
      · simp [hc, hst, hblk, hi]

/-! ### PUTBLOCKING (R114) -/

theorem ports_of_putBlocking {s : State} {data : Byte} {ops : List HostOp} (h : s.host = .putBlocking data :: ops) :
    s.ports = (true, some (encode (.tryput data))) := by
  simp [State.ports, h, HostOp.drives]

theorem putBlockingDone_eq_false_iff (r : Word) :
    putBlockingDone r = false ↔ rspStatus r = 0#4 ∧ rspFlag r = false := by
  have hok : rspStatus r = statusCode .ok ↔ rspStatus r = 0#4 := Iff.rfl
  simp [putBlockingDone, ← hok]

/-- R114: the loop stays at its entry on an OK answer whose flag is 0, and ends on any other. -/
theorem advanceHost_putBlocking (r : Word) (data : Byte) (ops : List HostOp) :
    advanceHost r (.putBlocking data :: ops) =
      if rspStatus r = 0#4 ∧ rspFlag r = false then .putBlocking data :: ops else ops := by
  simp only [← putBlockingDone_eq_false_iff, advanceHost]
  cases putBlockingDone r <;> rfl

/-- A presented word is answered in its cycle (R220), whatever it is. -/
theorem hostStep_rspValid {c : Word} {s u : State} (h : hostStep (some c) s = .next u) : u.rspValid = true := by
  cases hd : decode c with
  | illegal why =>
    rw [hostStep_illegal s hd] at h
    cases h
    rfl
  | instr i =>
    obtain ⟨b, st, f, d, e⟩ := exec_answers i s
    rw [hostStep_instr s hd, e] at h
    cases h
    rfl

/-- Settles O26: a loop's cycle has the reset released, so it answers, and the loop reads that answer. -/
theorem putBlockingTriesAgain : Obligations.PutBlockingTriesAgain := by
  intro s t data ops hhost hstep
  have hports := ports_of_putBlocking hhost
  rcases step_next_cases hstep with ⟨hr, -⟩ | ⟨-, u, hu, rfl⟩
  · simp [hports] at hr
  · obtain ⟨u', hu', -, hkept, -⟩ := hostStep_next s.ports.2 (s.runEngines s.sample)
    cases hu.symm.trans hu'
    rw [hports] at hu
    have hanswered := hostStep_rspValid hu
    refine ⟨hports, hanswered, ?_⟩
    rw [State.endCycle_host, hkept, State.runEngines_host, hhost, State.endCycle_rsp, advanceHost_putBlocking]

/-! ### The assembler (R113) -/

/-- R113, R263: of a program that assembles, the first line is placed no earlier than the cycle reached, and the lines
after it are assembled from the cycle its item ends in. -/
theorem assembleFrom_cons_eq_some {now : Nat} {l : AsmLine} {ls : List AsmLine} {ops : List HostOp}
    (h : assembleFrom now (l :: ls) = some ops) :
    now ≤ l.cycle ∧ ∃ here rest, assembleItem l.item = some here ∧
      assembleFrom (l.cycle + here.length) ls = some rest ∧
      ops = List.replicate (l.cycle - now) idleCycle ++ here ++ rest := by
  simp only [assembleFrom] at h
  split at h
  next => cases h
  next hnow =>
    split at h
    next => cases h
    next here hhere =>
      obtain ⟨rest, hrest, rfl⟩ := Option.map_eq_some_iff.mp h
      exact ⟨by omega, here, rest, hhere, hrest, rfl⟩

theorem assembleItem_command_eq_some {i : Instr} {here : List HostOp} (h : assembleItem (.command i) = some here) :
    here = [.cycle true (some (encode i))] := by
  simp only [assembleItem] at h
  split at h <;> cases h
  rfl

/-- A command placed in cycle k stands k − `now` entries into the program assembled from cycle `now`. -/
theorem assembleFrom_places {l : AsmLine} {i : Instr} (hitem : l.item = .command i) {ls : List AsmLine} (hl : l ∈ ls) :
    ∀ {now : Nat} {ops : List HostOp}, assembleFrom now ls = some ops →
      now ≤ l.cycle ∧ ops[l.cycle - now]? = some (.cycle true (some (encode i))) := by
  induction ls with
  | nil => cases hl
  | cons first ls ih =>
    intro now ops h
    obtain ⟨hnow, here, rest, hhere, hrest, rfl⟩ := assembleFrom_cons_eq_some h
    rcases List.mem_cons.mp hl with rfl | hl
    · rw [hitem] at hhere
      cases assembleItem_command_eq_some hhere
      exact ⟨hnow, by simp⟩
    · obtain ⟨hreached, hplaced⟩ := ih hl hrest
      refine ⟨by omega, ?_⟩
      have hbefore : (List.replicate (first.cycle - now) idleCycle ++ here).length ≤ l.cycle - now := by
        simp
        omega
      have hindex : l.cycle - now - (List.replicate (first.cycle - now) idleCycle ++ here).length =
          l.cycle - (first.cycle + here.length) := by
        simp
        omega
      rw [List.getElem?_append_right hbefore, hindex]
      exact hplaced

/-- Settles O27, the program starting in cycle 0. -/
theorem assemblerPlacesCommands : Obligations.AssemblerPlacesCommands :=
  fun _ _ h _ hl _ hitem => (assembleFrom_places hitem hl h).2

end Sys2Proof.Machine

/-! # The clock and the timer of 40_clock_timer.md: bauds, compare events, and the timer's place in its period

The record after the engines' part of a cycle is written out once, stage by stage (`configuredEngines_eq`), with what
the stages leave unchanged (`afterTx_frame`, `configuredEngines_frame`). The timer is read as one number, its place in
the bit period (`timerPos`): a cycle moves it on by one, modulo the period, and a compare match is a place of it. -/

namespace Sys2Proof.Machine

/-! ### Bauds (R130, R131, R133) -/

theorem le_ticksPerBit_iff {p : Params} {baud : Nat} (hp : 1 ≤ p.prescaler) (hb : 1 ≤ baud) (t : Nat) :
    t ≤ ticksPerBit p baud ↔ 2 * p.prescaler * baud * t ≤ 2 * p.fCpu + p.prescaler * baud := by
  have hpos : 0 < 2 * p.prescaler * baud := by positivity
  rw [ticksPerBit, Nat.le_div_iff_mul_le hpos, Nat.mul_comm]

/-- Settles O42: the quotient is `t` when it is at least `t` and not `t + 1`. -/
theorem ticksRoundToNearestHalfUp : Obligations.TicksRoundToNearestHalfUp := by
  intro p baud t hp hb
  have hlow := le_ticksPerBit_iff hp hb t
  have hhigh := le_ticksPerBit_iff hp hb (t + 1)
  rw [← hlow, ← not_le, ← hhigh]
  omega

/-- Settles O43: with the parameters put in, both bounds of R133 are linear in the baud. -/
theorem defaultLegalBauds : Obligations.DefaultLegalBauds := by
  refine ⟨fun baud => ?_, by decide⟩
  rw [legalBaud_iff]
  rcases Nat.eq_zero_or_pos baud with rfl | hb
  · simp
  · have hlow := le_ticksPerBit_iff (p := Params.default) (by decide) hb 2
    have hhigh := le_ticksPerBit_iff (p := Params.default) (by decide) hb (2 ^ 16 + 1)
    simp only [Params.default] at hlow hhigh ⊢
    omega

/-! ### The event conditions (R139, R140, R191) -/

theorem txFire_iff (p : Params) (b : Block) :
    txFire p b = true ↔ b.prescCnt + 1 = p.prescaler ∧ nextCnt b = b.top ∧ b.txTickEn = true := by
  simp [txFire, txMatch, tick, and_assoc]

theorem rxFire_iff (p : Params) (b : Block) :
    rxFire p b = true ↔ b.prescCnt + 1 = p.prescaler ∧ nextCnt b = b.rxCmp ∧ b.rxSampEn = true := by
  simp [rxFire, rxMatch, tick, and_assoc]

theorem edge_iff (r : Bool) (b : Block) :
    edge r b = true ↔ b.rxDetEn = true ∧ b.rxPrev = true ∧ r = false := by
  simp [edge, and_assoc]

/-- While the sampler is enabled nothing is detected, since the detector is off (R61). -/
theorem edge_eq_false_of_sampling {p : Params} {b : Block} (hb : b.Inv p) (hc : b.configured = true)
    (hen : b.rxSampEn = true) (r : Bool) : edge r b = false := by
  simp [edge, hb.oneRxEvent hc, hen]

/-! ### The stages of the engines' part of a cycle, and what they leave unchanged -/

theorem timerStep_eq (p : Params) (b : Block) :
    timerStep p b = if b.prescCnt + 1 = p.prescaler then { b with prescCnt := 0, cnt := nextCnt b }
      else { b with prescCnt := b.prescCnt + 1 } := by
  simp [timerStep, tick]

/-- The record after the timer, the Tx engine and the start-bit detection, before the sampler (R260). -/
def afterDetect (p : Params) (r : Bool) (b : Block) : Block :=
  if edge r b then rxDetect (afterTx p b) else afterTx p b

theorem configuredEngines_eq (p : Params) (r : Bool) (b : Block) :
    configuredEngines p r b = if rxFire p b then rxStep p r (afterDetect p r b) else afterDetect p r b := rfl

theorem engines_configured {p : Params} {b : Block} (r : Bool) (h : b.configured = true) :
    engines p r b = configuredEngines p r b := by
  simp [engines, h]

/-- The timer and the Tx engine write the timer's two registers and what a Tx tick writes. -/
theorem afterTx_frame (p : Params) (b : Block) :
    afterTx p b = { b with
      prescCnt := (timerStep p b).prescCnt, cnt := (timerStep p b).cnt, txState := (afterTx p b).txState,
      txBits := (afterTx p b).txBits, txSr := (afterTx p b).txSr, txOut := (afterTx p b).txOut,
      txTickEn := (afterTx p b).txTickEn, txq := { b.txq with headOut := (afterTx p b).txq.headOut } } := by
  unfold afterTx
  split
  · rw [txStep_frame, timerStep_frame]
  · rw [timerStep_frame]

theorem afterDetect_frame (p : Params) (r : Bool) (b : Block) :
    afterDetect p r b = { afterTx p b with
      rxCmp := (afterDetect p r b).rxCmp, rxDetEn := (afterDetect p r b).rxDetEn,
      rxSampEn := (afterDetect p r b).rxSampEn, rxState := (afterDetect p r b).rxState } := by
  unfold afterDetect
  split <;> rfl

/-- The Rx engine writes what a detection and a sampler firing write. -/
theorem configuredEngines_frame (p : Params) (r : Bool) (b : Block) :
    configuredEngines p r b = { afterTx p b with
      rxCmp := (configuredEngines p r b).rxCmp, rxDetEn := (configuredEngines p r b).rxDetEn,
      rxSampEn := (configuredEngines p r b).rxSampEn, rxState := (configuredEngines p r b).rxState,
      rxBits := (configuredEngines p r b).rxBits, rxAcc := (configuredEngines p r b).rxAcc,
      rxq := { (configuredEngines p r b).rxq with headOut := b.rxq.headOut } } := by
  rw [configuredEngines_eq]
  split
  · rw [rxStep_frame, afterDetect_frame, afterTx_frame]
  · rw [afterDetect_frame, afterTx_frame]

theorem configuredEngines_timer (p : Params) (r : Bool) (b : Block) :
    (configuredEngines p r b).prescCnt = (timerStep p b).prescCnt ∧
      (configuredEngines p r b).cnt = (timerStep p b).cnt := by
  rw [configuredEngines_frame, afterTx_frame]
  exact ⟨rfl, rfl⟩

theorem engines_fifos (p : Params) (r : Bool) (b : Block) :
    (engines p r b).txq = { b.txq with headOut := (engines p r b).txq.headOut } ∧
      (engines p r b).rxq.headOut = b.rxq.headOut := by
  cases hc : b.configured with
  | false => simp [engines_unconfigured r hc]
  | true =>
    rw [engines_configured r hc, configuredEngines_frame, afterTx_frame]
    exact ⟨rfl, rfl⟩

/-- Settles O29: neither engine writes the timer's registers, so they are the timer step's. -/
theorem timerOfAConfiguredCycle : Obligations.TimerOfAConfiguredCycle := by
  intro p r b hc
  obtain ⟨hpresc, hcnt⟩ := configuredEngines_timer p r b
  rw [engines_configured r hc, hpresc, hcnt]
  rcases timerStep_cases p b with ⟨htick, e⟩ | ⟨htick, e⟩ <;> simp [e, htick, nextCnt]

/-- Settles O30: `b1` is the timer step and `b2` is `afterTx`, and each event adds its stage to them. -/
theorem eventConditions : Obligations.EventConditions := by
  rintro p b b1 b2 r next rfl hb1 hb2
  obtain rfl : b1 = timerStep p b := by rw [hb1, timerStep_eq, nextCnt]
  obtain rfl : b2 = afterTx p b := hb2
  obtain ⟨htxq, hrxq⟩ := engines_fifos p r b
  refine ⟨txFire_iff p b, rxFire_iff p b, edge_iff r b, ?_, engines_unconfigured r, ?_, htxq, hrxq,
    engines_config p r b⟩
  · rintro hc hb ⟨hedge, hfire⟩
    obtain ⟨-, -, hen⟩ := (rxFire_iff p b).mp hfire
    simp [edge_eq_false_of_sampling hb hc hen] at hedge
  · intro hc
    rw [engines_configured r hc, configuredEngines_eq, ← timerStep_frame]
    exact ⟨fun hedge hfire => by simp [afterDetect, hedge, hfire],
      fun hedge hfire => by simp [afterDetect, hedge, hfire],
      fun hedge hfire => by simp [afterDetect, hedge, hfire],
      fun htx hedge hfire => by simp [afterDetect, afterTx, htx, hedge, hfire]⟩

/-! ### The two engines do not read each other (R142)

`txOnly` forgets the receiver's fields and `rxOnly` the transmitter's. Each stage of a cycle commutes with forgetting,
or is itself forgotten, so what is left after a cycle is a function of what was left before it. -/

/-- The timer's and the transmitter's fields, the others at their power-on values. -/
def txOnly (b : Block) : Block := { Block.powerOn with
  configured := b.configured, top := b.top, prescCnt := b.prescCnt, cnt := b.cnt
  txTickEn := b.txTickEn, txState := b.txState, txBits := b.txBits, txSr := b.txSr, txOut := b.txOut, txq := b.txq }

/-- The timer's and the receiver's fields, the others at their power-on values. -/
def rxOnly (b : Block) : Block := { Block.powerOn with
  configured := b.configured, top := b.top, prescCnt := b.prescCnt, cnt := b.cnt
  rxCmp := b.rxCmp, rxDetEn := b.rxDetEn, rxSampEn := b.rxSampEn, rxState := b.rxState, rxBits := b.rxBits
  rxAcc := b.rxAcc, rxPrev := b.rxPrev, rxq := b.rxq }

theorem txOnly_eq_iff (b b' : Block) : txOnly b = txOnly b' ↔
    b.configured = b'.configured ∧ b.top = b'.top ∧ b.prescCnt = b'.prescCnt ∧ b.cnt = b'.cnt ∧
      b.txTickEn = b'.txTickEn ∧ b.txState = b'.txState ∧ b.txBits = b'.txBits ∧ b.txSr = b'.txSr ∧
      b.txOut = b'.txOut ∧ b.txq = b'.txq := by
  simp [txOnly]

theorem rxOnly_eq_iff (b b' : Block) : rxOnly b = rxOnly b' ↔
    b.configured = b'.configured ∧ b.top = b'.top ∧ b.prescCnt = b'.prescCnt ∧ b.cnt = b'.cnt ∧
      b.rxCmp = b'.rxCmp ∧ b.rxDetEn = b'.rxDetEn ∧ b.rxSampEn = b'.rxSampEn ∧ b.rxState = b'.rxState ∧
      b.rxBits = b'.rxBits ∧ b.rxAcc = b'.rxAcc ∧ b.rxPrev = b'.rxPrev ∧ b.rxq = b'.rxq := by
  simp [rxOnly]

theorem txOnly_timerStep (p : Params) (b : Block) : txOnly (timerStep p b) = timerStep p (txOnly b) := by
  rw [timerStep_eq, timerStep_eq, apply_ite txOnly]
  rfl

theorem rxOnly_timerStep (p : Params) (b : Block) : rxOnly (timerStep p b) = timerStep p (rxOnly b) := by
  rw [timerStep_eq, timerStep_eq, apply_ite rxOnly]
  rfl

theorem txOnly_txStep (p : Params) (b : Block) : txOnly (txStep p b) = txStep p (txOnly b) := by
  rcases txStep_cases p b with ⟨hs, he, e⟩ | ⟨hs, he, e⟩ | ⟨hs, e⟩ | ⟨hs, e⟩ <;> rw [e]
  · simp [txStep, txOnly, hs, Fifo.pop, he, txIdle]
  · simp [txStep, txOnly, hs, Fifo.pop, he, txStart]
  · simp [txStep, txOnly, hs, txData]
  · simp [txStep, txOnly, hs, txStop]

theorem rxOnly_txStep (p : Params) (b : Block) : rxOnly (txStep p b) = rxOnly b := by
  rw [txStep_frame]
  rfl

theorem txOnly_rxDetect (b : Block) : txOnly (rxDetect b) = txOnly b := rfl

theorem rxOnly_rxDetect (b : Block) : rxOnly (rxDetect b) = rxDetect (rxOnly b) := rfl

theorem txOnly_rxStep (p : Params) (r : Bool) (b : Block) : txOnly (rxStep p r b) = txOnly b := by
  rw [rxStep_frame]
  rfl

theorem rxOnly_rxStep (p : Params) (r : Bool) (b : Block) : rxOnly (rxStep p r b) = rxStep p r (rxOnly b) := by
  rcases rxStep_cases p r b with ⟨hs, e⟩ | ⟨hs, e⟩ | ⟨hs, e⟩ <;> rw [e]
  · simp [rxStep, rxOnly, hs, rxMidStart]
  · rcases rxData_cases p r b with ⟨hbits, e'⟩ | ⟨hbits, e'⟩ <;> rw [e']
    · simp [rxStep, rxOnly, hs, rxData, hbits]
    · simp [rxStep, rxOnly, hs, rxData, hbits]
  · simp [rxStep, rxOnly, hs, rxMidStop]

theorem txOnly_afterTx (p : Params) (b : Block) : txOnly (afterTx p b) = afterTx p (txOnly b) := by
  rw [afterTx, apply_ite txOnly, txOnly_txStep, txOnly_timerStep]
  rfl

/-- The Tx engine's stage is forgotten. -/
theorem rxOnly_afterTx (p : Params) (b : Block) : rxOnly (afterTx p b) = timerStep p (rxOnly b) := by
  rw [afterTx, apply_ite rxOnly, rxOnly_txStep, ite_self, rxOnly_timerStep]

theorem txOnly_engines (p : Params) (r : Bool) (b : Block) :
    txOnly (engines p r b) = if b.configured then afterTx p (txOnly b) else txOnly b := by
  have hrx : txOnly (configuredEngines p r b) = afterTx p (txOnly b) := by
    rw [configuredEngines_eq, apply_ite txOnly, txOnly_rxStep, ite_self, afterDetect, apply_ite txOnly,
      txOnly_rxDetect, ite_self, txOnly_afterTx]
  rw [engines, apply_ite txOnly, hrx]

theorem rxOnly_engines (p : Params) (r : Bool) (b : Block) : rxOnly (engines p r b) = engines p r (rxOnly b) := by
  have hdetect : rxOnly (afterDetect p r b) = afterDetect p r (rxOnly b) := by
    have hfire : txFire p (rxOnly b) = false := Bool.and_false _
    rw [afterDetect, apply_ite rxOnly, rxOnly_rxDetect, rxOnly_afterTx, afterDetect, afterTx, hfire]
    rfl
  rw [engines, apply_ite rxOnly, configuredEngines_eq, apply_ite rxOnly, rxOnly_rxStep, hdetect]
  rfl

/-- Settles O41: `txOnly_engines` has no sample and no receiver on its right side, `rxOnly_engines` no transmitter. -/
theorem enginesAreIndependent : Obligations.EnginesAreIndependent := by
  intro p r r' b b' hc htop hpresc hcnt
  constructor
  · intro htx
    have hbefore : txOnly b = txOnly b' := (txOnly_eq_iff b b').mpr ⟨hc, htop, hpresc, hcnt, htx⟩
    have hafter : txOnly (engines p r b) = txOnly (engines p r' b') := by
      rw [txOnly_engines, txOnly_engines, hbefore, hc]
    obtain ⟨-, -, -, -, htx'⟩ := (txOnly_eq_iff _ _).mp hafter
    exact htx'
  · intro hrx
    have hbefore : rxOnly b = rxOnly b' := (rxOnly_eq_iff b b').mpr ⟨hc, htop, hpresc, hcnt, hrx⟩
    have hafter : rxOnly (engines p r b) = rxOnly (engines p r b') := by
      rw [rxOnly_engines, rxOnly_engines, hbefore]
    obtain ⟨-, -, -, -, hcmp, hdet, hsamp, hstate, hbits, hacc, -, hq⟩ := (rxOnly_eq_iff _ _).mp hafter
    exact ⟨hcmp, hdet, hsamp, hstate, hbits, hacc, hq⟩

/-! ### Runs of cycles without commands -/

theorem quietRun_concat (p : Params) (b : Block) (rs : List Bool) (r : Bool) :
    quietRun p b (rs ++ [r]) = quietCycle p r (quietRun p b rs) := by
  induction rs generalizing b with
  | nil => rfl
  | cons x rs ih => exact ih (quietCycle p x b)

theorem quietRun_config (p : Params) (b : Block) (rs : List Bool) :
    (quietRun p b rs).configured = b.configured ∧ (quietRun p b rs).top = b.top := by
  induction rs generalizing b with
  | nil => exact ⟨rfl, rfl⟩
  | cons r rs ih =>
    obtain ⟨hconf, htop, -⟩ := engines_config p r b
    obtain ⟨hconf', htop'⟩ := ih (quietCycle p r b)
    exact ⟨hconf'.trans hconf, htop'.trans htop⟩

theorem bitPeriod_quietRun (p : Params) (b : Block) (rs : List Bool) :
    bitPeriod p (quietRun p b rs) = bitPeriod p b := by
  obtain ⟨-, htop⟩ := quietRun_config p b rs
  rw [bitPeriod, period, htop, bitPeriod, period]

theorem quietRun_keeps_inv {p : Params} {b : Block} (hb : b.Inv p) (rs : List Bool) : (quietRun p b rs).Inv p := by
  induction rs generalizing b with
  | nil => exact hb
  | cons r rs ih => exact ih (quietCycle_keeps_inv hb r)

/-! ### The timer's place in the bit period (R135–R137) -/

/-- The clock cycles since `cnt` and `presc_cnt` were both 0. -/
def timerPos (p : Params) (b : Block) : Nat := b.cnt * p.prescaler + b.prescCnt

section Place
variable {p : Params} {b : Block} (hb : b.Inv p)
include hb

theorem prescCnt_lt : b.prescCnt < p.prescaler := by
  obtain ⟨⟨-, hpresc, -⟩, -⟩ := (Block.fits_iff p b).mp hb.fits
  exact hpresc

theorem prescaler_pos : 0 < p.prescaler := Nat.zero_lt_of_lt (prescCnt_lt hb)

theorem timerPos_div : timerPos p b / p.prescaler = b.cnt := by
  rw [timerPos, Nat.mul_comm, Nat.mul_add_div (prescaler_pos hb), Nat.div_eq_of_lt (prescCnt_lt hb), Nat.add_zero]

/-- `cnt` and `presc_cnt` are the two digits of the place. -/
theorem timerPos_eq_iff {v u : Nat} (hu : u < p.prescaler) :
    timerPos p b = v * p.prescaler + u ↔ b.cnt = v ∧ b.prescCnt = u := by
  constructor
  · intro h
    have hcnt : b.cnt = v := by
      rw [← timerPos_div hb, h, Nat.mul_comm, Nat.mul_add_div (prescaler_pos hb), Nat.div_eq_of_lt hu, Nat.add_zero]
    subst hcnt
    exact ⟨rfl, Nat.add_left_cancel h⟩
  · rintro ⟨rfl, rfl⟩
    rfl

theorem timerPos_eq_mul_iff (v : Nat) : timerPos p b = v * p.prescaler ↔ b.cnt = v ∧ b.prescCnt = 0 :=
  timerPos_eq_iff hb (prescaler_pos hb)

variable (hc : b.configured = true)
include hc

theorem timerPos_lt : timerPos p b < bitPeriod p b := by
  obtain ⟨hcnt, -⟩ := hb.counters hc
  have hpresc := prescCnt_lt hb
  calc b.cnt * p.prescaler + b.prescCnt < b.cnt * p.prescaler + p.prescaler := by omega
    _ = (b.cnt + 1) * p.prescaler := (Nat.succ_mul _ _).symm
    _ ≤ bitPeriod p b := Nat.mul_le_mul_right _ (Nat.succ_le_succ hcnt)

theorem timerPos_timerStep : timerPos p (timerStep p b) = (timerPos p b + 1) % bitPeriod p b := by
  have hlt : timerPos p (timerStep p b) < bitPeriod p b := by
    have hlt := timerPos_lt (timerStep_keeps_inv hb hc) ((timerStep_enables p b).1.trans hc)
    rwa [timerStep_frame] at hlt ⊢
  have hnext : timerPos p (timerStep p b) = timerPos p b + 1 ∨
      timerPos p b + 1 = bitPeriod p b ∧ timerPos p (timerStep p b) = 0 := by
    rcases timerStep_cases p b with ⟨htick, e⟩ | ⟨-, e⟩ <;> rw [e]
    · have hcarry : timerPos p b + 1 = (b.cnt + 1) * p.prescaler := by
        rw [timerPos, Nat.add_assoc, htick, Nat.succ_mul]
      by_cases htop : b.cnt = b.top
      · exact .inr ⟨by rw [hcarry, htop]; rfl, by simp [timerPos, nextCnt, htop]⟩
      · exact .inl (by rw [hcarry]; simp [timerPos, nextCnt, htop])
    · exact .inl rfl
  rcases hnext with h | ⟨hwrap, h⟩
  · rw [← h, Nat.mod_eq_of_lt hlt]
  · rw [h, hwrap, Nat.mod_self]

theorem timerPos_quietCycle (r : Bool) : timerPos p (quietCycle p r b) = (timerPos p b + 1) % bitPeriod p b := by
  obtain ⟨hpresc, hcnt⟩ := configuredEngines_timer p r b
  rw [← timerPos_timerStep hb hc, quietCycle, engines_configured r hc]
  simp [timerPos, hpresc, hcnt]

theorem timerPos_quietRun (rs : List Bool) :
    timerPos p (quietRun p b rs) = (timerPos p b + rs.length) % bitPeriod p b := by
  induction rs using List.reverseRecOn with
  | nil => exact (Nat.mod_eq_of_lt (timerPos_lt hb hc)).symm
  | append_singleton rs r ih =>
    obtain ⟨hconf, -⟩ := quietRun_config p b rs
    rw [quietRun_concat, timerPos_quietCycle (quietRun_keeps_inv hb rs) (hconf.trans hc), ih, bitPeriod_quietRun,
      Nat.mod_add_mod, List.length_append, List.length_singleton, Nat.add_assoc]

theorem cnt_quietRun (rs : List Bool) :
    (quietRun p b rs).cnt = (timerPos p b + rs.length) % bitPeriod p b / p.prescaler := by
  rw [← timerPos_quietRun hb hc, timerPos_div (quietRun_keeps_inv hb rs)]

/-- The Rx compare match is the step to the place at which `cnt` enters `rx_cmp` (R140). -/
theorem rxFire_iff_timerPos :
    rxFire p b = true ↔ (timerPos p b + 1) % bitPeriod p b = b.rxCmp * p.prescaler ∧ b.rxSampEn = true := by
  rw [rxFire_iff, ← and_assoc, ← timerPos_timerStep hb hc, timerPos_eq_mul_iff (timerStep_keeps_inv hb hc)]
  rcases timerStep_cases p b with ⟨htick, e⟩ | ⟨htick, e⟩ <;> simp [e, htick]

end Place

/-- Within one period no two distances lead to the same place. -/
theorem add_mod_eq_add_mod_iff {a i j T : Nat} (hi : i < T) (hj : j < T) : (a + i) % T = (a + j) % T ↔ i = j :=
  ⟨fun h => (Nat.ModEq.add_left_cancel' a h).eq_of_lt_of_lt hi hj, fun h => h ▸ rfl⟩

/-- Within one period every place is reached at exactly one distance. -/
theorem existsUnique_add_mod_eq (a : Nat) {y T : Nat} (hy : y < T) : ∃! k, k < T ∧ (a + k) % T = y := by
  have hT : 0 < T := Nat.zero_lt_of_lt hy
  have hreached : (a + (y + (T - a % T)) % T) % T = y := by
    have hround : a + (y + (T - a % T)) = y + T * (a / T + 1) := by
      have hdiv := Nat.div_add_mod a T
      have hmod := Nat.mod_lt a hT
      rw [Nat.mul_succ]
      omega
    rw [Nat.add_mod_mod, hround, Nat.add_mul_mod_self_left, Nat.mod_eq_of_lt hy]
  refine ⟨_, ⟨Nat.mod_lt _ hT, hreached⟩, ?_⟩
  rintro j ⟨hj, hj'⟩
  exact (add_mod_eq_add_mod_iff hj (Nat.mod_lt _ hT)).mp (hj'.trans hreached.symm)

/-- Settles O53: the place moves on by one a cycle, modulo T (`timerPos_quietRun`), and `cnt` enters `v` at the place
`v * PRESCALER`. -/
theorem counterPeriod : Obligations.CounterPeriod := by
  rintro p b rs T hb hc rfl
  have hpos := timerPos_quietRun hb hc
  have hinv := quietRun_keeps_inv hb
  refine ⟨hpos rs, ?_, ?_⟩
  · have hreturn := Nat.add_modEq_left_iff (a := timerPos p b) (b := rs.length) (n := bitPeriod p b)
    rw [Nat.ModEq, Nat.mod_eq_of_lt (timerPos_lt hb hc), ← hpos] at hreturn
    exact (timerPos_eq_iff (hinv rs) (prescCnt_lt hb)).symm.trans hreturn
  · intro hlen v hv
    have hplace : v * p.prescaler < bitPeriod p b :=
      Nat.mul_lt_mul_of_pos_right (Nat.lt_succ_of_le hv) (prescaler_pos hb)
    have hentered : ∀ k < bitPeriod p b, (timerPos p b + 1 + k) % bitPeriod p b = v * p.prescaler ↔
        (quietRun p b (rs.take (k + 1))).cnt = v ∧ (quietRun p b (rs.take (k + 1))).prescCnt = 0 := by
      intro k hk
      have htake : (rs.take (k + 1)).length = k + 1 := List.length_take_of_le (hlen ▸ hk)
      rw [← timerPos_eq_mul_iff (hinv _), hpos, htake, Nat.add_assoc, Nat.add_comm 1]
    exact (existsUnique_congr fun k => and_congr_right (hentered k)).mp (existsUnique_add_mod_eq _ hplace)

/-- Settles O54: `INIT` puts the timer at place 0, so within the first period `cnt` is the number of cycles divided by
PRESCALER. -/
theorem firstTicksAfterInit : Obligations.FirstTicksAfterInit := by
  intro p baud top b rs hp hl htop
  have hb := initBlock_meets_inv b hp hl
  have hperiod : bitPeriod p (initBlock p baud b) = p.prescaler * top + p.prescaler := by
    rw [htop, ← Nat.mul_succ, Nat.mul_comm]
    rfl
  have hcnt (hlt : rs.length < p.prescaler * top + p.prescaler) :
      (quietRun p (initBlock p baud b) rs).cnt = rs.length / p.prescaler := by
    rw [cnt_quietRun hb rfl, hperiod]
    simp [timerPos, initBlock, Nat.mod_eq_of_lt hlt]
  have hpresc := prescaler_pos hb
  obtain ⟨-, -, hone⟩ := hb.counters rfl
  have htick : p.prescaler ≤ p.prescaler * top := Nat.le_mul_of_pos_right _ (htop ▸ hone)
  refine ⟨fun h => ?_, fun h => ?_, fun h => ?_, fun h => ?_⟩ <;> rw [hcnt (by omega)]
  · exact Nat.div_eq_of_lt h
  · rw [h, Nat.div_self hpresc]
  · exact Nat.div_lt_of_lt_mul h
  · rw [h, Nat.mul_div_cancel_left _ hpresc]

/-! ### The next sampler firing (R140, R143) -/

section NextFiring
variable {p : Params} {b : Block} (hb : b.Inv p) (hc : b.configured = true) (hen : b.rxSampEn = true)
include hb hc hen

/-- Between two firings the sampler stays enabled, with the same threshold. -/
theorem quietCycle_sampling (r : Bool) (hfire : rxFire p b = false) :
    (quietCycle p r b).rxSampEn = true ∧ (quietCycle p r b).rxCmp = b.rxCmp := by
  have hengines : engines p r b = afterTx p b := by
    simp [engines_configured r hc, configuredEngines_eq, hfire, afterDetect, edge_eq_false_of_sampling hb hc hen]
  rw [quietCycle, hengines, afterTx_frame]
  exact ⟨hen, rfl⟩

variable {k : Nat} (hk : k < bitPeriod p b) (htarget : (timerPos p b + 1 + k) % bitPeriod p b = b.rxCmp * p.prescaler)
include hk htarget

omit hen in
/-- If the threshold is `k + 1` places on, an enabled sampler fires after `k` cycles and not before. -/
theorem rxFire_quietRun_of_sampling {rs : List Bool} (hrs : rs.length ≤ k)
    (hkept : (quietRun p b rs).rxSampEn = true ∧ (quietRun p b rs).rxCmp = b.rxCmp) :
    rxFire p (quietRun p b rs) = true ↔ rs.length = k := by
  obtain ⟨hconf, -⟩ := quietRun_config p b rs
  obtain ⟨hen, hcmp⟩ := hkept
  rw [rxFire_iff_timerPos (quietRun_keeps_inv hb rs) (hconf.trans hc), timerPos_quietRun hb hc, bitPeriod_quietRun,
    hcmp, ← htarget, Nat.mod_add_mod, Nat.add_right_comm, add_mod_eq_add_mod_iff (hrs.trans_lt hk) hk]
  exact and_iff_left hen

theorem quietRun_sampling {rs : List Bool} (hrs : rs.length ≤ k) :
    (quietRun p b rs).rxSampEn = true ∧ (quietRun p b rs).rxCmp = b.rxCmp := by
  induction rs using List.reverseRecOn with
  | nil => exact ⟨hen, rfl⟩
  | append_singleton rs r ih =>
    rw [List.length_append, List.length_singleton] at hrs
    have hkept := ih (by omega)
    have hfire : rxFire p (quietRun p b rs) = false := by
      rw [Bool.eq_false_iff, Ne, rxFire_quietRun_of_sampling hb hc hk htarget (by omega) hkept]
      omega
    obtain ⟨hen', hcmp'⟩ := hkept
    obtain ⟨hconf, -⟩ := quietRun_config p b rs
    obtain ⟨hen'', hcmp''⟩ := quietCycle_sampling (quietRun_keeps_inv hb rs) (hconf.trans hc) hen' r hfire
    rw [quietRun_concat]
    exact ⟨hen'', hcmp''.trans hcmp'⟩

theorem rxFire_quietRun_iff {rs : List Bool} (hrs : rs.length ≤ k) :
    rxFire p (quietRun p b rs) = true ↔ rs.length = k :=
  rxFire_quietRun_of_sampling hb hc hk htarget hrs (quietRun_sampling hb hc hen hk htarget hrs)

end NextFiring

/-- Settles O55: `delay` places after the detection's cycle the timer is half a bit on, at the threshold. -/
theorem firstSampleDelay : Obligations.FirstSampleDelay := by
  intro p b rs delay hb hc hen hcmp hdelay
  have hpresc := prescCnt_lt hb
  obtain ⟨-, -, hone⟩ := hb.counters hc
  have hhalf : ((b.top + 1) / 2 - 1) * p.prescaler + p.prescaler = (b.top + 1) / 2 * p.prescaler := by
    rw [← Nat.succ_mul, show ((b.top + 1) / 2 - 1).succ = (b.top + 1) / 2 by omega]
  have hperiod : (b.top + 1) / 2 * p.prescaler < bitPeriod p b :=
    Nat.mul_lt_mul_of_pos_right (show (b.top + 1) / 2 < b.top + 1 by omega) (prescaler_pos hb)
  obtain ⟨k, rfl⟩ : ∃ k, delay = k + 1 := ⟨delay - 1, by omega⟩
  have htarget : (timerPos p b + 1 + k) % bitPeriod p b = b.rxCmp * p.prescaler := by
    have hsum : timerPos p b + 1 + k = (b.cnt + (b.top + 1) / 2) * p.prescaler := by
      rw [timerPos, Nat.add_mul]
      omega
    rw [hsum, hcmp, bitPeriod, period, Nat.mul_mod_mul_right]
  have hfire (hrs : rs.length ≤ k) := rxFire_quietRun_iff hb hc hen (by omega) htarget hrs
  constructor
  · intro hrs
    rw [Bool.eq_false_iff, Ne, hfire (by omega)]
    omega
  · intro hrs
    exact (hfire (by omega)).mpr (by omega)

end Sys2Proof.Machine

/-! # The transmit engine of 41_tx_engine.md: each Tx tick, the tick in the cycle of a TRYPUT, and the frame's waveform

A Tx tick is said once per state of the engine (`txStep_of_idle` and its siblings). What the transmitter holds is read
apart from the timer and the receiver (`txFields`): a cycle makes one Tx tick of it if the Tx event fires
(`txFields_engines`), and a run that starts at the place of the Tx compare match makes one every bit period
(`txFields_quietRun`). -/

namespace Sys2Proof.Machine

/-! ### The four Tx ticks (R161–R164) -/

section Ticks
variable (p : Params) {b : Block}

theorem txStep_of_idle (hs : b.txState = .awaitingStart) (he : b.txq.empty = true) : txStep p b = txIdle b := by
  simp [txStep, hs, Fifo.pop, he]

theorem txStep_of_start (hs : b.txState = .awaitingStart) (he : b.txq.empty = false) :
    txStep p b = txStart (b.txq.storage.read b.txq.headOut)
      { b.txq with headOut := (b.txq.headOut + 1) % p.txFifoN } b := by
  simp [txStep, hs, Fifo.pop, he]

theorem txStep_of_data (hs : b.txState = .shiftingData) : txStep p b = txData b := by
  simp [txStep, hs]

theorem txStep_of_stop (hs : b.txState = .awaitingStop) : txStep p b = txStop b := by
  simp [txStep, hs]

end Ticks

/-- Settles O31: `head_in = head_out` is the empty FIFO of R41. -/
theorem txIdleTick : Obligations.TxIdleTick :=
  fun p _ hs he => txStep_of_idle p hs (decide_eq_true he)

/-- Settles O32: the byte popped goes to `tx_sr`. -/
theorem txStartTick : Obligations.TxStartTick :=
  fun p _ hs he => txStep_of_start p hs (decide_eq_false he)

/-- The number of bits to come, of R64's range, is counted down without wrapping, and reaches 0 from 1 only. -/
theorem bits_sub_one_eq {n : BitVec 4} (h : 1 ≤ n.toNat) :
    n - 1#4 = BitVec.ofNat 4 (n.toNat - 1) ∧ (n - 1#4 = 0#4 ↔ n.toNat = 1) := by
  constructor <;> bv_omega

/-- Settles O33: `tx_bits` is read as a number. -/
theorem txDataTick : Obligations.TxDataTick := by
  intro p b hs hlow _
  obtain ⟨hbits, hlast⟩ := bits_sub_one_eq hlow
  rw [txStep_of_data p hs, txData, ← hbits]
  simp only [hlast]

/-- Settles O34: no field of `txq` is read. -/
theorem txStopTick : Obligations.TxStopTick :=
  fun p _ hs => txStep_of_stop p hs

/-! ### The transmitter's fields -/

/-- What a Tx tick reads and writes (R160), the other fields at their power-on values. -/
def txFields (b : Block) : Block := { Block.powerOn with
  txTickEn := b.txTickEn, txState := b.txState, txBits := b.txBits, txSr := b.txSr, txOut := b.txOut, txq := b.txq }

section Fields
variable (b : Block)
@[simp] theorem txFields_txTickEn : (txFields b).txTickEn = b.txTickEn := rfl
@[simp] theorem txFields_txOut : (txFields b).txOut = b.txOut := rfl
@[simp] theorem txFields_txq : (txFields b).txq = b.txq := rfl
end Fields

theorem txFields_timerStep (p : Params) (b : Block) : txFields (timerStep p b) = txFields b := by
  rw [timerStep_frame]
  rfl

theorem txFields_txStep (p : Params) (b : Block) : txFields (txStep p b) = txStep p (txFields b) := by
  rcases txStep_cases p b with ⟨hs, he, e⟩ | ⟨hs, he, e⟩ | ⟨hs, e⟩ | ⟨hs, e⟩ <;> rw [e]
  · exact (txStep_of_idle p (b := txFields b) hs he).symm
  · exact (txStep_of_start p (b := txFields b) hs he).symm
  · exact (txStep_of_data p (b := txFields b) hs).symm
  · exact (txStep_of_stop p (b := txFields b) hs).symm

/-- The transmitter's part of a configured cycle is one Tx tick if the Tx event fires, and nothing if not (R139, R160):
the receiver's part is forgotten already by `txOnly_engines`. -/
theorem txFields_engines {p : Params} {b : Block} (hc : b.configured = true) (r : Bool) :
    txFields (engines p r b) = if txFire p b then txStep p (txFields b) else txFields b := by
  have hafter : txFields (afterTx p (txOnly b)) = if txFire p b then txStep p (txFields b) else txFields b := by
    rw [afterTx, apply_ite txFields, txFields_txStep, txFields_timerStep]
    rfl
  have hengines := txOnly_engines p r b
  rw [if_pos hc] at hengines
  rw [← hafter, ← hengines]
  rfl

/-! ### A TRYPUT in the cycle of an idle tick (R265) -/

theorem Fifo.not_full_of_empty {n : Nat} {q : Fifo} (hq : q.fits n = true) (hn : 2 ≤ n) (he : q.empty = true) :
    q.full n = false := by
  have hcount := (Fifo.empty_iff_count hq).mp he
  rw [Bool.eq_false_iff, Ne, Fifo.full_iff_count hq]
  omega

/-- An idle tick in a cycle leaves the line at mark and `txq` as it was (R161). -/
theorem engines_of_idle {p : Params} {b : Block} (hc : b.configured = true) (hfire : txFire p b = true)
    (hs : b.txState = .awaitingStart) (he : b.txq.empty = true) (r : Bool) :
    (engines p r b).txOut = true ∧ (engines p r b).txq = b.txq := by
  have hfields : txFields (engines p r b) = txIdle (txFields b) := by
    rw [txFields_engines hc, if_pos hfire, txStep_of_idle p (b := txFields b) hs he]
  rw [← txFields_txOut, ← txFields_txq, hfields]
  exact ⟨rfl, rfl⟩

/-- Settles O24: the idle tick clears `tx_tick_en` before the command runs, and the TRYPUT, finding room, sets it. -/
theorem tryputRearmsTheIdleTick : Obligations.TryputRearmsTheIdleTick := by
  intro s data hs hports hc hfire hstate hempty
  obtain ⟨hp, hb⟩ := hs
  obtain ⟨-, hcap, -⟩ := (legalParams_iff s.params).mp hp
  obtain ⟨-, hfits, -⟩ := (Block.fits_iff s.params s.blk).mp hb.fits
  have hroom := Fifo.not_full_of_empty hfits (two_le_of_legalCapacity hcap) hempty
  obtain ⟨hout, htxq⟩ := engines_of_idle hc hfire hstate hempty s.sample
  obtain ⟨hconf, -⟩ := engines_config s.params s.sample s.blk
  have hexec := exec_tryput_accepted (s := s.runEngines s.sample) data (hconf.trans hc) (by simpa [htxq] using hroom)
  refine ⟨_, step_of_command ⟨hp, hb⟩ hports (decode_encode_tryput data) hexec, ?_, ?_, ?_, ?_⟩
  · rw [State.endCycle_rsp, State.answer_rsp]
    decide
  · simp
  · simpa [putBlock_frame] using hout
  · simpa [htxq] using Fifo.push_not_empty data hroom

/-! ### Tx ticks over a run (R137, R139) -/

section Run
variable {p : Params} {b : Block} (hb : b.Inv p) (hc : b.configured = true)
include hb hc

/-- The Tx compare match is the step to the place at which `cnt` enters `top` (R139). -/
theorem txFire_iff_timerPos :
    txFire p b = true ↔ (timerPos p b + 1) % bitPeriod p b = b.top * p.prescaler ∧ b.txTickEn = true := by
  rw [txFire_iff, ← and_assoc, ← timerPos_timerStep hb hc, timerPos_eq_mul_iff (timerStep_keeps_inv hb hc)]
  rcases timerStep_cases p b with ⟨htick, e⟩ | ⟨htick, e⟩ <;> simp [e, htick]

variable (hplace : timerPos p b = b.top * p.prescaler)
include hplace

/-- From the place of the Tx compare match an enabled Tx tick comes once every bit period. -/
theorem txFire_quietRun_iff (rs : List Bool) :
    txFire p (quietRun p b rs) = true ↔ bitPeriod p b ∣ rs.length + 1 ∧ (quietRun p b rs).txTickEn = true := by
  obtain ⟨hconf, htop⟩ := quietRun_config p b rs
  have hreturn := Nat.add_modEq_left_iff (a := timerPos p b) (b := rs.length + 1) (n := bitPeriod p b)
  rw [Nat.ModEq, Nat.mod_eq_of_lt (timerPos_lt hb hc)] at hreturn
  rw [txFire_iff_timerPos (quietRun_keeps_inv hb rs) (hconf.trans hc), timerPos_quietRun hb hc, bitPeriod_quietRun,
    Nat.mod_add_mod, htop, ← hplace, Nat.add_assoc, hreturn]

/-- From the place of the Tx compare match a run makes as many Tx ticks as it has whole bit periods, if each of them
(`m` at most) finds `tx_tick_en` set. -/
theorem txFields_quietRun {m : Nat} (hen : ∀ k < m, ((txStep p)^[k] (txFields b)).txTickEn = true) (rs : List Bool)
    (hm : rs.length / bitPeriod p b ≤ m) :
    txFields (quietRun p b rs) = (txStep p)^[rs.length / bitPeriod p b] (txFields b) := by
  induction rs using List.reverseRecOn with
  | nil => simp [quietRun]
  | append_singleton rs r ih =>
    rw [List.length_append, List.length_singleton] at hm ⊢
    have hbefore := ih ((Nat.div_le_div_right (Nat.le_succ _)).trans hm)
    have hfire := txFire_quietRun_iff hb hc hplace rs
    have hcycle : txFields (quietRun p b (rs ++ [r])) = if txFire p (quietRun p b rs) then
        txStep p (txFields (quietRun p b rs)) else txFields (quietRun p b rs) := by
      rw [quietRun_concat, ← txFields_engines ((quietRun_config p b rs).1.trans hc) r]
      rfl
    rw [hcycle, hbefore]
    by_cases hdvd : bitPeriod p b ∣ rs.length + 1
    · rw [Nat.succ_div_of_dvd hdvd] at hm ⊢
      have htick : (quietRun p b rs).txTickEn = true := by
        rw [← txFields_txTickEn, hbefore]
        exact hen _ hm
      rw [if_pos (hfire.mpr ⟨hdvd, htick⟩), Function.iterate_succ_apply']
    · rw [Nat.succ_div_of_not_dvd hdvd, if_neg fun h => hdvd (hfire.mp h).1]

end Run

/-! ### The frame's waveform (R166) -/

theorem txStep_iterate_sendingBlock (p : Params) (v : Byte) (q : Fifo) (b : Block) :
    ∀ k ≤ 8, (txStep p)^[k] (sendingBlock v q b 0) = sendingBlock v q b k := by
  intro k hk
  induction k with
  | zero => rfl
  | succ k ih => rw [Function.iterate_succ_apply', ih (by omega), txStep_sendingBlock p v q b (by omega)]

/-- The stop tick ends the frame with the line at mark (R164). -/
theorem txStep_sendingBlock_stop (p : Params) (v : Byte) (q : Fifo) (b : Block) :
    txStep p (sendingBlock v q b 8) = txStop (sendingBlock v q b 8) :=
  txStep_of_stop p rfl

/-- The record of a start tick, read as the record before a frame's first data tick (R162). -/
theorem txFields_eq_sendingBlock {b : Block} (hs : b.txState = .shiftingData) (hbits : b.txBits = 8#4)
    (hout : b.txOut = false) : txFields b = sendingBlock b.txSr b.txq (txFields b) 0 := by
  simp [txFields, sendingBlock, hs, hbits, hout]

/-- Over the run from a start tick, up to the end of the stop bit, the transmitter makes one tick of the frame every bit
period: each finds `tx_tick_en` set, as R63 has it at the start and no tick of a frame clears it. -/
theorem txFields_quietRun_of_frame {p : Params} {b : Block} (hb : b.Inv p) (hc : b.configured = true)
    (hs : b.txState = .shiftingData) (hbits : b.txBits = 8#4) (hout : b.txOut = false)
    (hplace : timerPos p b = b.top * p.prescaler) {rs : List Bool} (hrs : rs.length / bitPeriod p b ≤ 9) :
    txFields (quietRun p b rs) =
      (txStep p)^[rs.length / bitPeriod p b] (sendingBlock b.txSr b.txq (txFields b) 0) := by
  have hen : b.txTickEn = true := hb.txEnabled (.inl (by simp [hs]))
  have hstart := txFields_eq_sendingBlock hs hbits hout
  rw [← hstart]
  refine txFields_quietRun hb hc hplace (fun k hk => ?_) rs hrs
  rw [hstart, txStep_iterate_sendingBlock p _ _ _ k (by omega)]
  exact hen

/-- Settles O56: after `n` cycles the frame has had `n / T` ticks since its start tick. -/
theorem frameWaveform : Obligations.FrameWaveform := by
  rintro p b rs T hb hc hs hbits hout hcnt hpresc rfl
  have hplace := (timerPos_eq_mul_iff hb b.top).mpr ⟨hcnt, hpresc⟩
  have hlevel (k : Nat) (hk : k ≤ 9) (hlow : k * bitPeriod p b ≤ rs.length)
      (hhigh : rs.length < (k + 1) * bitPeriod p b) :
      (quietRun p b rs).txOut = ((txStep p)^[k] (sendingBlock b.txSr b.txq (txFields b) 0)).txOut := by
    have hticks : rs.length / bitPeriod p b = k := Nat.div_eq_of_lt_le hlow hhigh
    rw [← txFields_txOut, txFields_quietRun_of_frame hb hc hs hbits hout hplace (hticks.trans_le hk), hticks]
  refine ⟨fun h => ?_, fun i hi hlow hhigh => ?_, fun hlow hhigh => ?_⟩
  · exact hlevel 0 (by omega) (by simp) (by rwa [Nat.zero_add, Nat.one_mul])
  · rw [hlevel (i + 1) (by omega) (by rwa [Nat.mul_comm]) (by rwa [Nat.mul_comm]),
      txStep_iterate_sendingBlock p _ _ _ (i + 1) (by omega), show 7 - i = 8 - (i + 1) by omega]
    rfl
  · rw [hlevel 9 le_rfl hlow hhigh, Function.iterate_succ_apply', txStep_iterate_sendingBlock p _ _ _ 8 le_rfl,
      txStep_sendingBlock_stop]
    rfl

end Sys2Proof.Machine

/-! # The receive engine of 42_rx_engine.md: the detection, each sampler firing, and the way out of every frame

A sampler firing is said once per state of the engine (`rxStep_of_start` and its siblings). How far a record is from an
armed detector is a number of firings (`firingsLeft`, at most ten): a cycle with a firing takes one off
(`firingsLeft_quietCycle_of_fire`), any other cycle of a frame none, and in every bit period of a frame there is one
(`exists_next_firing`). -/

namespace Sys2Proof.Machine

/-! ### The detection and the three sampler firings (R192–R198) -/

/-- Settles O36: P is `top + 1` and H half of it (R10). -/
theorem startBitDetection : Obligations.StartBitDetection :=
  fun _ => rfl

section Firings
variable (p : Params) (r : Bool) {b : Block}

theorem rxStep_of_start (hs : b.rxState = .awaitingStart) : rxStep p r b = rxMidStart b := by
  simp [rxStep, hs]

theorem rxStep_of_data (hs : b.rxState = .shiftingData) : rxStep p r b = rxData p r b := by
  simp [rxStep, hs]

theorem rxStep_of_stop (hs : b.rxState = .awaitingStop) : rxStep p r b = rxMidStop b := by
  simp [rxStep, hs]

end Firings

/-- Settles O37: the sample is not read. -/
theorem rxMidStartFiring : Obligations.RxMidStartFiring :=
  fun p r _ hs => rxStep_of_start p r hs

/-- Settles O38: `rx_bits` is read as a number, and the push of the eighth sample finds `rxq` full or not. -/
theorem rxDataFiring : Obligations.RxDataFiring := by
  rintro p r b _ hs hlow - rfl
  obtain ⟨hbits, hlast⟩ := bits_sub_one_eq hlow
  rw [rxStep_of_data p r hs, ← shiftIn_eq]
  rcases rxData_cases p r b with ⟨hzero, e⟩ | ⟨hmore, e⟩
  · have hone := hlast.mp hzero
    refine ⟨fun h => absurd hone h, fun _ hfull => ?_, fun _ hroom => ?_⟩ <;> rw [e]
    · simp [Fifo.push, Fifo.full, hfull]
    · simp [Fifo.push, Fifo.full, hroom]
  · have hne : b.rxBits.toNat ≠ 1 := mt hlast.mpr hmore
    exact ⟨fun _ => by rw [e, hbits], fun h => absurd h hne, fun h => absurd h hne⟩

/-- Settles O39: the sample is not read. -/
theorem rxMidStopFiring : Obligations.RxMidStopFiring :=
  fun p r _ hs => rxStep_of_stop p r hs

/-! ### The firings to come in a frame (R194–R200) -/

/-- How many sampler firings the receiver is from an armed detector: none while armed, and in a frame one for each of
the start bit, the data bits and the stop bit still to come. -/
def firingsLeft (b : Block) : Nat :=
  if b.rxDetEn then 0
  else match b.rxState with
    | .awaitingStart => 10
    | .shiftingData => b.rxBits.toNat + 1
    | .awaitingStop => 1

theorem firingsLeft_afterTx (p : Params) (b : Block) : firingsLeft (afterTx p b) = firingsLeft b := by
  rw [afterTx_frame]
  rfl

theorem firingsLeft_eq_zero_iff (b : Block) : firingsLeft b = 0 ↔ b.rxDetEn = true := by
  unfold firingsLeft
  cases b.rxDetEn <;> cases b.rxState <;> simp

/-- A firing takes one off, whatever the sample. -/
theorem firingsLeft_rxStep {p : Params} {b : Block} (r : Bool) (hdet : b.rxDetEn = false)
    (hbits : b.rxState = .shiftingData → 1 ≤ b.rxBits.toNat) :
    firingsLeft (rxStep p r b) + 1 = firingsLeft b := by
  rcases rxStep_cases p r b with ⟨hs, e⟩ | ⟨hs, e⟩ | ⟨hs, e⟩ <;> rw [e]
  · simp [firingsLeft, rxMidStart, hdet, hs]
  · have hlow := hbits hs
    obtain ⟨-, hlast⟩ := bits_sub_one_eq hlow
    rcases rxData_cases p r b with ⟨hzero, e'⟩ | ⟨hmore, e'⟩ <;> rw [e']
    · simp [firingsLeft, hdet, hs, hlast.mp hzero]
    · have hdown : (b.rxBits - 1#4).toNat + 1 = b.rxBits.toNat := by bv_omega
      simp [firingsLeft, hdet, hs, hdown, -BitVec.toNat_sub]
  · simp [firingsLeft, rxMidStop, hdet, hs]

section Invariant
variable {p : Params} {b : Block} (hb : b.Inv p)
include hb

/-- A frame has ten firings: start bit, eight data bits, stop bit. -/
theorem firingsLeft_le_ten : firingsLeft b ≤ 10 := by
  unfold firingsLeft
  split
  · omega
  · split
    next => exact le_rfl
    next hs =>
      obtain ⟨-, hhigh⟩ := hb.rxBitsRange hs
      omega
    next => omega

variable (hc : b.configured = true)
include hc

theorem firingsLeft_quietCycle_of_fire (r : Bool) (hfire : rxFire p b = true) :
    firingsLeft (quietCycle p r b) + 1 = firingsLeft b := by
  obtain ⟨-, -, hen⟩ := (rxFire_iff p b).mp hfire
  have hdet : b.rxDetEn = false := by simp [hb.oneRxEvent hc, hen]
  obtain ⟨hstate, hbits, -⟩ := afterTx_rx p b
  rw [quietCycle, engines_configured r hc, configuredEngines_of_rxFire r (hb.oneRxEvent hc) hfire,
    ← firingsLeft_afterTx p b]
  refine firingsLeft_rxStep r (by rwa [afterTx_frame]) fun hs => ?_
  rw [hstate] at hs
  obtain ⟨hlow, -⟩ := hb.rxBitsRange hs
  rwa [hbits]

variable (hen : b.rxSampEn = true)
include hen

theorem firingsLeft_quietCycle_of_no_fire (r : Bool) (hfire : rxFire p b = false) :
    firingsLeft (quietCycle p r b) = firingsLeft b := by
  have hengines : engines p r b = afterTx p b := by
    simp [engines_configured r hc, configuredEngines_eq, hfire, afterDetect, edge_eq_false_of_sampling hb hc hen]
  rw [quietCycle, hengines]
  exact firingsLeft_afterTx p b

/-- Up to the next firing, `k` cycles on, the number of those to come stands. -/
theorem firingsLeft_quietRun_of_sampling {k : Nat} (hk : k < bitPeriod p b)
    (htarget : (timerPos p b + 1 + k) % bitPeriod p b = b.rxCmp * p.prescaler) {rs : List Bool} (hrs : rs.length ≤ k) :
    firingsLeft (quietRun p b rs) = firingsLeft b := by
  induction rs using List.reverseRecOn with
  | nil => rfl
  | append_singleton rs r ih =>
    rw [List.length_append, List.length_singleton] at hrs
    have hshort : rs.length ≤ k := by omega
    have hfire : rxFire p (quietRun p b rs) = false := by
      rw [Bool.eq_false_iff, Ne, rxFire_quietRun_iff hb hc hen hk htarget hshort]
      omega
    obtain ⟨hen', -⟩ := quietRun_sampling hb hc hen hk htarget hshort
    obtain ⟨hconf, -⟩ := quietRun_config p b rs
    rw [quietRun_concat, firingsLeft_quietCycle_of_no_fire (quietRun_keeps_inv hb rs) (hconf.trans hc) hen' r hfire,
      ih hshort]

/-- Within a bit period an enabled sampler fires, and takes one off the firings to come (R137, R140). -/
theorem exists_next_firing :
    ∃ n ≤ bitPeriod p b, ∀ rs : List Bool, rs.length = n → firingsLeft (quietRun p b rs) + 1 = firingsLeft b := by
  obtain ⟨-, hcmp, -⟩ := hb.counters hc
  have hplace : b.rxCmp * p.prescaler < bitPeriod p b :=
    Nat.mul_lt_mul_of_pos_right (Nat.lt_succ_of_le hcmp) (prescaler_pos hb)
  obtain ⟨k, ⟨hk, htarget⟩, -⟩ := existsUnique_add_mod_eq (timerPos p b + 1) hplace
  refine ⟨k + 1, hk, fun rs hrs => ?_⟩
  obtain ⟨before, r, rfl⟩ : ∃ before r, rs = before ++ [r] :=
    ⟨_, _, (List.dropLast_append_getLast (List.ne_nil_of_length_eq_add_one hrs)).symm⟩
  rw [List.length_append, List.length_singleton, Nat.add_right_cancel_iff] at hrs
  have hfire := (rxFire_quietRun_iff hb hc hen hk htarget hrs.le).mpr hrs
  obtain ⟨hconf, -⟩ := quietRun_config p b before
  rw [quietRun_concat, firingsLeft_quietCycle_of_fire (quietRun_keeps_inv hb before) (hconf.trans hc) r hfire,
    firingsLeft_quietRun_of_sampling hb hc hen hk htarget hrs.le]

end Invariant

/-! ### The receiver leaves every frame (R201) -/

theorem quietRun_append (p : Params) (b : Block) (rs rs' : List Bool) :
    quietRun p b (rs ++ rs') = quietRun p (quietRun p b rs) rs' := by
  induction rs generalizing b with
  | nil => rfl
  | cons r rs ih => exact ih (quietCycle p r b)

/-- A receiver with `n` firings to come is armed within `n` bit periods. -/
theorem exists_armed_of_firingsLeft {p : Params} {n : Nat} {b : Block} {rs : List Bool} (hb : b.Inv p)
    (hc : b.configured = true) (hn : firingsLeft b = n) (hrs : n * bitPeriod p b ≤ rs.length) :
    ∃ k ≤ rs.length, (quietRun p b (rs.take k)).rxDetEn = true := by
  induction n generalizing b rs with
  | zero => exact ⟨0, Nat.zero_le _, (firingsLeft_eq_zero_iff b).mp hn⟩
  | succ n ih =>
    have hen : b.rxSampEn = true := by
      have hdet : b.rxDetEn ≠ true := mt (firingsLeft_eq_zero_iff b).mpr (by omega)
      simpa [hb.oneRxEvent hc] using hdet
    obtain ⟨m, hm, hfiring⟩ := exists_next_firing hb hc hen
    rw [Nat.succ_mul] at hrs
    have hlen : (rs.take m).length = m := List.length_take_of_le (by omega)
    have hleft := hfiring _ hlen
    obtain ⟨hconf, -⟩ := quietRun_config p b (rs.take m)
    have hrest : n * bitPeriod p (quietRun p b (rs.take m)) ≤ (rs.drop m).length := by
      rw [bitPeriod_quietRun, List.length_drop]
      omega
    obtain ⟨k, hk, harmed⟩ := ih (quietRun_keeps_inv hb _) (hconf.trans hc) (by omega) hrest
    rw [List.length_drop] at hk
    refine ⟨m + k, by omega, ?_⟩
    rwa [List.take_add, quietRun_append]

/-- Settles O58: there are ten firings to come at most, one in each bit period. -/
theorem receiverAlwaysRearms : Obligations.ReceiverAlwaysRearms := by
  intro p b rs hb hc hlen
  refine exists_armed_of_firingsLeft hb hc rfl ?_
  calc firingsLeft b * bitPeriod p b ≤ 10 * bitPeriod p b := Nat.mul_le_mul_right _ (firingsLeft_le_ten hb)
    _ = rs.length := hlen.symm

end Sys2Proof.Machine

/-! # The host commands of 43_host_commands.md: what each does and leaves, in its cycle and on the FIFOs

Each command has one equation per outcome (`exec_init_accepted`, `exec_tryput_refused` and their siblings). The effects
write these equations out, the frames read off them which fields change, and `step_of_fits` places the command in its
cycle. -/

namespace Sys2Proof.Machine

/-- A command leaves everything outside the record and the response port (R220). -/
theorem exec_outside {i : Instr} {s t : State} (h : exec i s = .next t) :
    t.params = s.params ∧ t.host = s.host ∧ t.line = s.line ∧ t.pad = s.pad ∧ t.cycle = s.cycle := by
  obtain ⟨b, st, f, d, e⟩ := exec_answers i s
  cases h.symm.trans e
  exact ⟨rfl, rfl, rfl, rfl, rfl⟩

/-! ### The fixed response words (R110) -/

theorem respond_ok : respond .ok false 0#8 = 0#32 := by decide
theorem respond_flag : respond .ok true 0#8 = 0x100#32 := by decide
theorem respond_errIllegal : respond .errIllegal false 0#8 = 0x10000000#32 := by decide
theorem respond_errNoinit : respond .errNoinit false 0#8 = 0x20000000#32 := by decide
theorem respond_errBaud : respond .errBaud false 0#8 = 0x30000000#32 := by decide

/-! ### `INIT` (R222, R223) -/

theorem exec_init_accepted {baud : Nat} {s : State} (hl : legalBaud s.params baud = true) :
    exec (.init baud) s = .next (s.answer (initBlock s.params baud s.blk) .ok false 0#8) :=
  if_pos hl

theorem exec_init_refused {baud : Nat} {s : State} (hl : legalBaud s.params baud = false) :
    exec (.init baud) s = .next (s.answer s.blk .errBaud false 0#8) :=
  if_neg (by simp [hl])

/-- The bauds `INIT` refuses (R133). -/
theorem legalBaud_eq_false_iff (p : Params) (baud : Nat) :
    legalBaud p baud = false ↔ baud = 0 ∨ ticksPerBit p baud < 2 ∨ 2 ^ p.timerWidth < ticksPerBit p baud := by
  rw [Bool.eq_false_iff, Ne, legalBaud_iff]
  omega

/-- Settles O7: the bauds refused are those that are not legal (`legalBaud_eq_false_iff`). -/
theorem initEffect : Obligations.InitEffect := by
  rintro baud s t rfl
  constructor
  · intro hrange
    rw [exec_init_refused ((legalBaud_eq_false_iff _ _).mpr hrange), State.answer, respond_errBaud]
  · intro hrange
    have hl : legalBaud s.params baud = true := by
      rwa [← Bool.not_eq_false, legalBaud_eq_false_iff]
    rw [exec_init_accepted hl, State.answer, respond_ok]
    rfl

/-- Settles O14: `INIT` answers with a record of its own making, whose `rx_prev` is the one before, or with the record
it found. -/
theorem initFrame : Obligations.InitFrame := by
  intro baud s t h
  obtain ⟨hparams, hhost, hline, hpad, hcycle⟩ := exec_outside h
  refine ⟨hparams, hhost, hline, hpad, hcycle, ?_⟩
  cases hl : legalBaud s.params baud with
  | true =>
    cases h.symm.trans (exec_init_accepted hl)
    exact ⟨rfl, nofun⟩
  | false =>
    cases h.symm.trans (exec_init_refused hl)
    exact ⟨rfl, fun _ => rfl⟩

/-! ### The commands that need a configured block (R226–R235) -/

/-- A command that is guarded by `configured` answers ERR_NOINIT before `INIT` (R235). -/
theorem exec_unconfigured {i : Instr} {s : State} (hi : ∀ baud, i ≠ .init baud) (hc : s.blk.configured = false) :
    exec i s = .next (s.answer s.blk .errNoinit false 0#8) := by
  obtain ⟨b, f, d, h⟩ := exec_eq_whenConfigured hi s
  rw [h, whenConfigured, hc]
  rfl

/-- Settles O11: every command but `INIT` is guarded by `configured` (`exec_unconfigured`). -/
theorem noCommandBeforeInit : Obligations.NoCommandBeforeInit := by
  intro i s hi hc
  rw [exec_unconfigured hi hc, State.answer, respond_errNoinit]

theorem putBlock_refused (b : Block) : putBlock b b.txq false = b := rfl

/-- A TRYPUT on a configured block whose `txq` is full is refused (R227). -/
theorem exec_tryput_refused {s : State} (data : Byte) (hc : s.blk.configured = true)
    (hfull : s.blk.txq.full s.params.txFifoN = true) :
    exec (.tryput data) s = .next (s.answer s.blk .ok false 0#8) := by
  simp [exec, execTryput, whenConfigured, hc, Fifo.push, hfull, putBlock_refused]

/-- A TRYGET on a configured block whose `rxq` is empty answers the NUL sentinel (R231). -/
theorem exec_tryget_empty {s : State} (hc : s.blk.configured = true) (he : s.blk.rxq.empty = true) :
    exec .tryget s = .next (s.answer s.blk .ok false 0#8) := by
  simp [exec, execTryget, whenConfigured, hc, Fifo.pop, he]

/-- An ISBUSY on a configured block answers `busy` and leaves the record (R232). -/
theorem exec_isbusy {s : State} (hc : s.blk.configured = true) :
    exec .isbusy s = .next (s.answer s.blk .ok (busy s.blk) 0#8) :=
  if_pos hc

/-- `busy` as R232 writes it. -/
theorem busy_iff (b : Block) : busy b = true ↔ b.txq.headIn ≠ b.txq.headOut ∨ b.txState ≠ .awaitingStart := by
  simp [busy, Fifo.empty]

/-- Settles O8: unconfigured, full, and accepted. -/
theorem tryputEffect : Obligations.TryputEffect := by
  intro data s
  refine ⟨noCommandBeforeInit _ s nofun, fun hc hfull => ?_, fun hc hfull => ?_⟩
  · rw [exec_tryput_refused data hc (decide_eq_true hfull), State.answer, respond_ok]
  · have hroom : s.blk.txq.full s.params.txFifoN = false := decide_eq_false hfull
    rw [exec_tryput_accepted data hc hroom, State.answer, respond_flag, Fifo.push, hroom]
    rfl

/-- Settles O9: unconfigured, empty, and popped. -/
theorem trygetEffect : Obligations.TrygetEffect := by
  intro s
  refine ⟨noCommandBeforeInit _ s nofun, fun hc he => ?_, fun hc he => ?_⟩
  · rw [exec_tryget_empty hc (decide_eq_true he), State.answer, respond_ok]
  · have hpop : s.blk.rxq.pop s.params.rxFifoN = some (s.blk.rxq.storage.read s.blk.rxq.headOut,
        { s.blk.rxq with headOut := (s.blk.rxq.headOut + 1) % s.params.rxFifoN }) := by
      simp [Fifo.pop, Fifo.empty, he]
    rw [exec_tryget_popped hc hpop, State.answer, respond_byte]

/-- Settles O10: the flag answered is `busy`, written out. -/
theorem isbusyEffect : Obligations.IsbusyEffect := by
  intro s
  refine ⟨noCommandBeforeInit _ s nofun, fun hc hb => ?_, fun hc hb => ?_⟩
  · rw [exec_isbusy hc, (busy_iff _).mpr hb, State.answer, respond_flag]
  · rw [exec_isbusy hc, Bool.eq_false_iff.mpr (mt (busy_iff _).mp hb), State.answer, respond_ok]

/-- A TRYPUT leaves the record or, accepted, writes one slot, moves `head_in` and arms the Tx tick. -/
theorem exec_tryput_blk {data : Byte} {s t : State} (h : exec (.tryput data) s = .next t) :
    t.blk = s.blk ∨
    (s.blk.configured = true ∧ s.blk.txq.full s.params.txFifoN = false ∧
      t.blk = { s.blk with
        txTickEn := true
        txq := { s.blk.txq with
          storage := s.blk.txq.storage.write s.blk.txq.headIn data
          headIn := (s.blk.txq.headIn + 1) % s.params.txFifoN } }) := by
  obtain ⟨hunconfigured, hrefused, haccepted⟩ := tryputEffect data s
  cases hc : s.blk.configured with
  | false => cases h.symm.trans (hunconfigured hc); exact .inl rfl
  | true =>
    by_cases hfull : (s.blk.txq.headIn + 1) % s.params.txFifoN = s.blk.txq.headOut
    · cases h.symm.trans (hrefused hc hfull)
      exact .inl rfl
    · cases h.symm.trans (haccepted hc hfull)
      exact .inr ⟨rfl, decide_eq_false hfull, rfl⟩

/-- A TRYGET leaves the record or moves `rxq.head_out`. -/
theorem exec_tryget_blk {s t : State} (h : exec .tryget s = .next t) :
    t.blk = s.blk ∨
    (s.blk.configured = true ∧ s.blk.rxq.empty = false ∧
      t.blk = { s.blk with rxq := { s.blk.rxq with headOut := (s.blk.rxq.headOut + 1) % s.params.rxFifoN } }) := by
  obtain ⟨hunconfigured, hempty, hpopped⟩ := trygetEffect s
  cases hc : s.blk.configured with
  | false => cases h.symm.trans (hunconfigured hc); exact .inl rfl
  | true =>
    by_cases he : s.blk.rxq.headIn = s.blk.rxq.headOut
    · cases h.symm.trans (hempty hc he)
      exact .inl rfl
    · cases h.symm.trans (hpopped hc he)
      exact .inr ⟨rfl, decide_eq_false he, rfl⟩

theorem exec_isbusy_blk {s t : State} (h : exec .isbusy s = .next t) : t.blk = s.blk := by
  cases hc : s.blk.configured with
  | false => cases h.symm.trans (exec_unconfigured nofun hc); rfl
  | true => cases h.symm.trans (exec_isbusy hc); rfl

/-- Settles O15: only an accepted byte writes, and it writes one slot (`exec_tryput_blk`). -/
theorem tryputFrame : Obligations.TryputFrame := by
  intro data s t h
  obtain ⟨hparams, hhost, hline, hpad, hcycle⟩ := exec_outside h
  refine ⟨hparams, hhost, hline, hpad, hcycle, ?_⟩
  rcases exec_tryput_blk h with hblk | ⟨hc, hroom, hblk⟩ <;> rw [hblk]
  · exact ⟨rfl, fun _ _ => rfl, fun _ => rfl, fun _ => rfl⟩
  · exact ⟨rfl, fun _ ha => Memory.read_write_ne _ data ha, fun _ => rfl, by simp [hc, hroom]⟩

/-- Settles O16: only a pop writes, and it writes no storage (`exec_tryget_blk`); an ISBUSY writes nothing. -/
theorem trygetAndIsbusyFrames : Obligations.TrygetAndIsbusyFrames := by
  constructor
  · intro s t h
    obtain ⟨hparams, hhost, hline, hpad, hcycle⟩ := exec_outside h
    refine ⟨hparams, hhost, hline, hpad, hcycle, ?_⟩
    rcases exec_tryget_blk h with hblk | ⟨hc, hne, hblk⟩ <;> rw [hblk]
    · exact ⟨rfl, fun _ => rfl, fun _ => rfl, fun _ => rfl⟩
    · exact ⟨rfl, fun _ => rfl, fun _ => rfl, by simp [hc, hne]⟩
  · intro s t h
    obtain ⟨hparams, hhost, hline, hpad, hcycle⟩ := exec_outside h
    exact ⟨hparams, hhost, hline, hpad, hcycle, exec_isbusy_blk h⟩

/-- Settles O12: the host step answers ERR_ILLEGAL on the record it finds (`hostStep_illegal`). -/
theorem illegalWordEffect : Obligations.IllegalWordEffect := by
  intro c why s hd
  rw [hostStep_illegal s hd, State.illegal, State.answer, respond_errIllegal]

/-! ### The command in its cycle (R220, R224, R260) -/

/-- With reset released, legal parameters and a record of R30's shape, a step is the engines, then the host step on
what is presented, then the end of the cycle (R260). -/
theorem step_of_fits {s : State} {cmd : Option Word} (hp : legalParams s.params = true)
    (hfits : s.blk.fits s.params = true) (hports : s.ports = (true, cmd)) :
    step s = mapNext (State.endCycle s.sample) (hostStep cmd (s.runEngines s.sample)) := by
  simp [step, runCycle, liveCycle, hp, hfits, hports]

/-- An entry that presents no TRYPUT word is no PUTBLOCKING, and is done after its cycle (R114). -/
theorem advanceHost_of_not_tryput {s : State} (h : ∀ data, s.ports ≠ (true, some (encode (.tryput data)))) (r : Word) :
    advanceHost r s.host = s.host.tail := by
  cases hhost : s.host with
  | nil => rfl
  | cons op ops =>
    cases op with
    | cycle rstN cmd => rfl
    | putBlocking data => exact absurd (ports_of_putBlocking hhost) (h data)

/-- Settles O17, by what is presented: a command, no word, or an illegal word, which no PUTBLOCKING presents. -/
theorem stepRunsDecodedCommand : Obligations.StepRunsDecodedCommand := by
  intro s hp hfits
  refine ⟨fun c i hports hd => ?_, fun hports => ?_, fun c why hports hd => ?_⟩
  · rw [step_of_fits hp hfits hports, hostStep_instr _ hd]
    rfl
  · rw [← advanceHost_of_not_tryput (fun data => by simp [hports]) 0#32, step_of_fits hp hfits hports]
    rfl
  · have hnot : ∀ data, s.ports ≠ (true, some (encode (.tryput data))) := by
      rintro data h
      obtain rfl : c = encode (.tryput data) := by simpa [hports] using h
      simp [decode_encode_tryput] at hd
    rw [← advanceHost_of_not_tryput hnot 0x10000000#32, step_of_fits hp hfits hports, hostStep_illegal _ hd,
      State.illegal, State.answer, respond_errIllegal]
    rfl

/-- Settles O21: of the record the engines leave, an accepted `INIT` keeps `rx_prev` only, which the end of the cycle
then writes. -/
theorem initOverridesItsCycle : Obligations.InitOverridesItsCycle := by
  intro s c baud hp hfits hports hd hl
  rw [step_of_fits hp hfits hports, hostStep_instr _ hd, exec_init_accepted (s := s.runEngines s.sample) hl]
  exact ⟨_, rfl, respond_ok, rfl⟩

/-! ### N − 1 bytes and no more (R228) -/

/-- As long as they fit, bytes pushed in turn are all accepted and stand behind the ones held, in their order. -/
theorem Fifo.pushAll_of_room {n : Nat} {q : Fifo} {vs : List Byte} (hq : q.fits n = true)
    (hroom : q.count n + vs.length ≤ n - 1) :
    (q.pushAll n vs).2 = List.replicate vs.length true ∧ (q.pushAll n vs).1.contents n = q.contents n ++ vs ∧
      (q.pushAll n vs).1.fits n = true := by
  induction vs generalizing q with
  | nil => exact ⟨rfl, (List.append_nil _).symm, hq⟩
  | cons v vs ih =>
    rw [List.length_cons] at hroom ⊢
    have hfull : q.full n = false := by
      rw [Bool.eq_false_iff, Ne, Fifo.full_iff_count hq]
      omega
    have hcount := Fifo.count_push (v := v) hq hfull
    obtain ⟨hoks, hcontents, hfits⟩ := ih (Fifo.push_fits v hq) (by omega)
    refine ⟨?_, ?_, hfits⟩
    · simp [Fifo.pushAll, hoks, hfull, List.replicate_succ]
    · rw [Fifo.pushAll, hcontents, Fifo.contents_push hq hfull, List.append_assoc, List.singleton_append]

/-- Settles O47: the N − 1 bytes fit (`Fifo.pushAll_of_room`), and the FIFO that holds them is full. -/
theorem capacityBoundary : Obligations.CapacityBoundary := by
  intro n q vs v _ hq he hlen
  have hcount := (Fifo.empty_iff_count hq).mp he
  have hnil : q.contents n = [] := List.length_eq_zero_iff.mp ((Fifo.length_contents n q).trans hcount)
  obtain ⟨hoks, hcontents, hfits⟩ := Fifo.pushAll_of_room (vs := vs) hq (by omega)
  rw [hnil, List.nil_append] at hcontents
  have hfull : (q.pushAll n vs).1.full n = true := by
    rw [Fifo.full_iff_count hfits, ← Fifo.length_contents, hcontents, hlen]
  exact ⟨hlen ▸ hoks, hcontents, if_pos hfull⟩


end Sys2Proof.Machine

/-! # How long the transmitter is busy, and how long PUTBLOCKING waits (43_host_commands.md R233, R234)

Both are bounded by the cycles to the next start tick (`cyclesToStart`): the Tx ticks the frame under way still needs,
a bit period each, and the cycles to the next Tx compare match. A cycle takes one off (`cyclesToStart_quietCycle`), and
so does a refused try of the loop, which leaves the record of a cycle without a command. -/

namespace Sys2Proof.Machine

/-! ### The cycles to the next start tick (R139, R160, R166) -/

/-- On a clock of `T` places, the steps from place `a` before the one that enters place `c`. -/
def stepsBefore (T c a : Nat) : Nat := if a < c then c - (a + 1) else c + T - (a + 1)

theorem stepsBefore_self (T c : Nat) : stepsBefore T c c = T - 1 := by
  unfold stepsBefore
  split <;> omega

section Steps
variable {T c a : Nat} (hc : c < T) (ha : a < T)
include hc ha

theorem stepsBefore_lt : stepsBefore T c a < T := by
  unfold stepsBefore
  split <;> omega

theorem stepsBefore_eq_zero_iff : stepsBefore T c a = 0 ↔ (a + 1) % T = c := by
  rw [nextHead_eq ha]
  unfold stepsBefore
  split <;> split <;> omega

theorem stepsBefore_next :
    stepsBefore T c ((a + 1) % T) = if stepsBefore T c a = 0 then T - 1 else stepsBefore T c a - 1 := by
  rw [nextHead_eq ha]
  unfold stepsBefore
  split_ifs <;> omega

end Steps

/-- The cycles before the one of the next Tx compare match (R139). -/
def cyclesToMatch (p : Params) (b : Block) : Nat :=
  stepsBefore (bitPeriod p b) (b.top * p.prescaler) (timerPos p b)

/-- The Tx ticks that the frame under way still needs, its stop tick included. -/
def ticksLeft (b : Block) : Nat :=
  match b.txState with
  | .awaitingStart => 0
  | .shiftingData => b.txBits.toNat + 1
  | .awaitingStop => 1

/-- The cycles before the one of the first Tx tick that finds no frame under way. -/
def cyclesToStart (p : Params) (b : Block) : Nat := ticksLeft b * bitPeriod p b + cyclesToMatch p b

theorem ticksLeft_eq_zero_iff (b : Block) : ticksLeft b = 0 ↔ b.txState = .awaitingStart := by
  unfold ticksLeft
  cases b.txState <;> simp

theorem ticksLeft_quietCycle {p : Params} {b : Block} (hc : b.configured = true) (r : Bool) :
    ticksLeft (quietCycle p r b) = if txFire p b then ticksLeft (txStep p b) else ticksLeft b := by
  have hfields : ticksLeft (quietCycle p r b) = ticksLeft (txFields (engines p r b)) := rfl
  rw [hfields, txFields_engines hc, ← txFields_txStep]
  split <;> rfl

section Invariant
variable {p : Params} {b : Block} (hb : b.Inv p)
include hb

theorem ticksLeft_le_nine : ticksLeft b ≤ 9 := by
  unfold ticksLeft
  split
  next => omega
  next hs =>
    obtain ⟨-, hbits⟩ := hb.txBitsRange hs
    omega
  next => omega

/-- A Tx tick of a frame leaves the frame one tick less. -/
theorem ticksLeft_txStep (hs : b.txState ≠ .awaitingStart) : ticksLeft (txStep p b) + 1 = ticksLeft b := by
  rcases txStep_cases p b with ⟨hs', -⟩ | ⟨hs', -⟩ | ⟨hs, e⟩ | ⟨hs, e⟩
  · exact absurd hs' hs
  · exact absurd hs' hs
  · obtain ⟨hlow, -⟩ := hb.txBitsRange hs
    obtain ⟨-, hlast⟩ := bits_sub_one_eq hlow
    have hpred : (b.txBits - 1#4).toNat + 1 = b.txBits.toNat := by bv_omega
    rw [e]
    by_cases h1 : b.txBits.toNat = 1
    · simp [ticksLeft, txData, hs, hlast, h1]
    · simp only [ticksLeft, txData, hs, hlast, h1, if_false, hpred]
  · rw [e]
    simp [ticksLeft, txStop, hs]

theorem topPos_lt_bitPeriod : b.top * p.prescaler < bitPeriod p b :=
  Nat.mul_lt_mul_of_pos_right (Nat.lt_succ_self _) (prescaler_pos hb)

variable (hc : b.configured = true)
include hc

theorem bitPeriod_pos : 0 < bitPeriod p b := Nat.zero_lt_of_lt (timerPos_lt hb hc)

theorem cyclesToMatch_lt : cyclesToMatch p b < bitPeriod p b :=
  stepsBefore_lt (topPos_lt_bitPeriod hb) (timerPos_lt hb hc)

/-- With `tx_tick_en` set the Tx event fires when no cycle is left before it. -/
theorem txFire_iff_cyclesToMatch (hen : b.txTickEn = true) : txFire p b = true ↔ cyclesToMatch p b = 0 := by
  rw [txFire_iff_timerPos hb hc, and_iff_left hen]
  exact (stepsBefore_eq_zero_iff (topPos_lt_bitPeriod hb) (timerPos_lt hb hc)).symm

theorem cyclesToMatch_quietCycle (r : Bool) : cyclesToMatch p (quietCycle p r b) =
    if cyclesToMatch p b = 0 then bitPeriod p b - 1 else cyclesToMatch p b - 1 := by
  have htop : (quietCycle p r b).top = b.top := (quietRun_config p b [r]).2
  have hperiod : bitPeriod p (quietCycle p r b) = bitPeriod p b := bitPeriod_quietRun p b [r]
  rw [cyclesToMatch, htop, hperiod, timerPos_quietCycle hb hc r]
  exact stepsBefore_next (topPos_lt_bitPeriod hb) (timerPos_lt hb hc)

/-- A cycle brings the next start tick one cycle nearer. -/
theorem cyclesToStart_quietCycle (r : Bool) (hen : b.txTickEn = true) (hleft : 0 < cyclesToStart p b) :
    cyclesToStart p (quietCycle p r b) + 1 = cyclesToStart p b := by
  have hperiod : bitPeriod p (quietCycle p r b) = bitPeriod p b := bitPeriod_quietRun p b [r]
  have hmatch := cyclesToMatch_lt hb hc
  have hfire := txFire_iff_cyclesToMatch hb hc hen
  unfold cyclesToStart at hleft ⊢
  rw [hperiod, cyclesToMatch_quietCycle hb hc r, ticksLeft_quietCycle hc r]
  by_cases h0 : cyclesToMatch p b = 0
  · have hs : b.txState ≠ .awaitingStart := fun hs => by simp [h0, (ticksLeft_eq_zero_iff b).mpr hs] at hleft
    rw [if_pos (hfire.mpr h0), if_pos h0, h0, ← ticksLeft_txStep hb hs, Nat.succ_mul]
    omega
  · rw [if_neg (mt hfire.mp h0), if_neg h0]
    omega

/-- At most a whole frame and a bit period are to come. -/
theorem cyclesToStart_lt : cyclesToStart p b < 10 * bitPeriod p b := by
  have hticks := Nat.mul_le_mul_right (bitPeriod p b) (ticksLeft_le_nine hb)
  have hmatch := cyclesToMatch_lt hb hc
  unfold cyclesToStart
  omega

end Invariant

/-! ### Busy (R233) -/

theorem busy_eq_false_iff (b : Block) : busy b = false ↔ b.txq.empty = true ∧ ticksLeft b = 0 := by
  simp [busy, ticksLeft_eq_zero_iff]

/-- No Tx tick fills an empty `txq` (R160). -/
theorem txStep_empty {p : Params} {b : Block} (he : b.txq.empty = true) : (txStep p b).txq.empty = true := by
  rcases txStep_cases p b with ⟨-, -, e⟩ | ⟨-, he', -⟩ | ⟨-, e⟩ | ⟨-, e⟩
  · rwa [e]
  · simp [he] at he'
  · rwa [e]
  · rwa [e]

theorem quietCycle_txq {p : Params} {b : Block} (hc : b.configured = true) (r : Bool) :
    (quietCycle p r b).txq = if txFire p b then (txStep p b).txq else b.txq := by
  have hfields : (quietCycle p r b).txq = (txFields (engines p r b)).txq := rfl
  rw [hfields, txFields_engines hc, ← txFields_txStep]
  split <;> rfl

section Empty
variable {p : Params} {b : Block} (hc : b.configured = true) (he : b.txq.empty = true)
include hc he

theorem quietRun_empty (rs : List Bool) : (quietRun p b rs).txq.empty = true := by
  induction rs using List.reverseRecOn with
  | nil => exact he
  | append_singleton rs r ih =>
    obtain ⟨hconf, -⟩ := quietRun_config p b rs
    rw [quietRun_concat, quietCycle_txq (hconf.trans hc)]
    split
    · exact txStep_empty ih
    · exact ih

/-- A transmitter with no frame under way and nothing queued starts none. -/
theorem quietRun_ticksLeft_of_idle (hs : b.txState = .awaitingStart) (rs : List Bool) :
    ticksLeft (quietRun p b rs) = 0 := by
  induction rs using List.reverseRecOn with
  | nil => exact (ticksLeft_eq_zero_iff b).mpr hs
  | append_singleton rs r ih =>
    obtain ⟨hconf, -⟩ := quietRun_config p b rs
    have hs' := (ticksLeft_eq_zero_iff _).mp ih
    rw [quietRun_concat, ticksLeft_quietCycle (hconf.trans hc), txStep_of_idle p hs' (quietRun_empty hc he rs)]
    split
    · exact ih
    · exact ih

end Empty

/-! ### Busy over a frame (R233) -/

section Frame
variable {p : Params} {b : Block} (hb : b.Inv p) (hc : b.configured = true)
include hb hc

/-- A frame is under way as long as a bit period or more is left before the next start tick. -/
theorem bitPeriod_le_cyclesToStart_iff : bitPeriod p b ≤ cyclesToStart p b ↔ ticksLeft b ≠ 0 := by
  have hmatch := cyclesToMatch_lt hb hc
  unfold cyclesToStart
  constructor
  · intro hle h0
    rw [h0] at hle
    omega
  · intro h
    exact (Nat.le_mul_of_pos_left _ (Nat.pos_of_ne_zero h)).trans (Nat.le_add_right _ _)

/-- While a frame is under way the start tick comes nearer by one cycle a cycle. -/
theorem cyclesToStart_quietRun {rs : List Bool} (hrs : rs.length + bitPeriod p b ≤ cyclesToStart p b + 1) :
    cyclesToStart p (quietRun p b rs) + rs.length = cyclesToStart p b := by
  induction rs using List.reverseRecOn with
  | nil => rfl
  | append_singleton rs r ih =>
    rw [List.length_append, List.length_singleton] at hrs ⊢
    have hbefore := ih (by omega)
    have hinv := quietRun_keeps_inv hb rs
    have hconf := (quietRun_config p b rs).1.trans hc
    have hframe : ticksLeft (quietRun p b rs) ≠ 0 := by
      rw [← bitPeriod_le_cyclesToStart_iff hinv hconf, bitPeriod_quietRun]
      omega
    have hen := hinv.txEnabled (.inl (mt (ticksLeft_eq_zero_iff _).mpr hframe))
    have hleft : 0 < cyclesToStart p (quietRun p b rs) := by
      have hle := (bitPeriod_le_cyclesToStart_iff hinv hconf).mpr hframe
      exact (bitPeriod_pos hinv hconf).trans_le hle
    have hnext := cyclesToStart_quietCycle hinv hconf r hen hleft
    rw [quietRun_concat]
    omega

end Frame

/-- Settles O57: nine whole bit periods and the rest of the present one are left after the start tick, and a frame is
under way until one bit period is left. -/
theorem busyUntilTheStopBit : Obligations.BusyUntilTheStopBit := by
  rintro p b rs T hb hc hs hbits he hcnt hpresc rfl
  change (rs.length < 9 * bitPeriod p b → _) ∧ (9 * bitPeriod p b ≤ rs.length → _)
  have hperiod := bitPeriod_pos hb hc
  have hplace := (timerPos_eq_mul_iff hb b.top).mpr ⟨hcnt, hpresc⟩
  have hstart : cyclesToStart p b = 10 * bitPeriod p b - 1 := by
    have hticks : ticksLeft b = 9 := by simp [ticksLeft, hs, hbits]
    rw [cyclesToStart, cyclesToMatch, hplace, stepsBefore_self, hticks]
    omega
  have hframe (rs : List Bool) (hrs : rs.length ≤ 9 * bitPeriod p b) :
      ticksLeft (quietRun p b rs) ≠ 0 ↔ rs.length < 9 * bitPeriod p b := by
    have hleft := cyclesToStart_quietRun hb hc (rs := rs) (by omega)
    rw [← bitPeriod_le_cyclesToStart_iff (quietRun_keeps_inv hb rs) ((quietRun_config p b rs).1.trans hc),
      bitPeriod_quietRun]
    omega
  constructor
  · intro hlt
    rw [← Bool.not_eq_false, busy_eq_false_iff]
    rintro ⟨-, hnone⟩
    exact (hframe rs hlt.le).mpr hlt hnone
  · intro hle
    have hlen : (rs.take (9 * bitPeriod p b)).length = 9 * bitPeriod p b := List.length_take_of_le hle
    have hidle : ticksLeft (quietRun p b (rs.take (9 * bitPeriod p b))) = 0 := by
      by_contra h
      exact hlen.not_lt ((hframe _ hlen.le).mp h)
    rw [busy_eq_false_iff]
    refine ⟨quietRun_empty hc he rs, ?_⟩
    rw [← List.take_append_drop (9 * bitPeriod p b) rs, quietRun_append]
    exact quietRun_ticksLeft_of_idle ((quietRun_config p b _).1.trans hc) (quietRun_empty hc he _)
      ((ticksLeft_eq_zero_iff _).mp hidle) _

/-! ### PUTBLOCKING ends (R234) -/

/-- After a pop there is room for a byte (R79). -/
theorem Fifo.not_full_of_pop {n : Nat} {q q' : Fifo} {v : Byte} (hq : q.fits n = true)
    (hpop : q.pop n = some (v, q')) : q'.full n = false := by
  have hcount := Fifo.count_pop hq hpop
  have hlt := Fifo.count_lt hq
  rw [Bool.eq_false_iff, Ne, Fifo.full_iff_count (Fifo.pop_fits hq hpop)]
  omega

section Room
variable {p : Params} {b : Block} (hp : legalParams p = true) (hb : b.Inv p) (hc : b.configured = true)
include hp hb

/-- A Tx tick that finds no frame under way leaves `txq` with room: it pops a byte, or there is none (R161, R162). -/
theorem txStep_not_full (hs : b.txState = .awaitingStart) : (txStep p b).txq.full p.txFifoN = false := by
  obtain ⟨-, hcap, -⟩ := (legalParams_iff p).mp hp
  obtain ⟨-, hfits, -⟩ := (Block.fits_iff p b).mp hb.fits
  rcases Fifo.pop_cases p.txFifoN b.txq with ⟨he, -⟩ | ⟨he, hpop⟩
  · rw [txStep_of_idle p hs he]
    exact Fifo.not_full_of_empty hfits (two_le_of_legalCapacity hcap) he
  · rw [txStep_of_start p hs he]
    exact Fifo.not_full_of_pop hfits hpop

include hc

/-- If the engines leave `txq` full, the Tx tick is armed (R63) and the next start tick is still to come. -/
theorem start_to_come_of_full {r : Bool} (hfull : (quietCycle p r b).txq.full p.txFifoN = true) :
    b.txTickEn = true ∧ 0 < cyclesToStart p b := by
  obtain ⟨-, hcap, -⟩ := (legalParams_iff p).mp hp
  obtain ⟨-, hfits, -⟩ := (Block.fits_iff p b).mp hb.fits
  rw [quietCycle_txq hc] at hfull
  have hen : b.txTickEn = true := by
    split at hfull
    next hfire =>
      obtain ⟨-, -, hen⟩ := (txFire_iff p b).mp hfire
      exact hen
    next =>
      obtain ⟨hne, -⟩ := Fifo.pop_of_full hfits (two_le_of_legalCapacity hcap) hfull
      exact hb.txEnabled (.inr hne)
  refine ⟨hen, Nat.pos_of_ne_zero fun h0 => ?_⟩
  obtain ⟨hticks, hmatch⟩ := Nat.add_eq_zero_iff.mp h0
  have hticks : ticksLeft b = 0 := (Nat.mul_eq_zero.mp hticks).resolve_right (bitPeriod_pos hb hc).ne'
  rw [if_pos ((txFire_iff_cyclesToMatch hb hc hen).mpr hmatch),
    txStep_not_full hp hb ((ticksLeft_eq_zero_iff b).mp hticks)] at hfull
  cases hfull

end Room

section Loop
variable {s : State} {data : Byte} {ops : List HostOp} (hs : s.Inv) (hhost : s.host = .putBlocking data :: ops)
include hs hhost

/-- A cycle of the loop ends with the answer of its TRYPUT, which the loop reads (R114). -/
theorem step_putBlocking {b : Block} {st : Status} {f : Bool} {d : Byte}
    (h : exec (.tryput data) (s.runEngines s.sample) = .next ((s.runEngines s.sample).answer b st f d)) :
    ∃ t, step s = .next t ∧ t.params = s.params ∧ t.blk = recordInput s.sample b ∧ t.rsp = respond st f d ∧
      t.host = if statusCode st = 0#4 ∧ f = false then s.host else ops := by
  refine ⟨_, step_of_command hs (ports_of_putBlocking hhost) (decode_encode_tryput data) h, rfl, rfl, rfl, ?_⟩
  simp [hhost, advanceHost_putBlocking]

/-- A try of the loop on a configured block: accepted, or refused on the record of the engines alone, which is full. -/
theorem step_putBlocking_cases (hc : s.blk.configured = true) :
    (∃ t, step s = .next t ∧ t.host = ops) ∨
    ((quietCycle s.params s.sample s.blk).txq.full s.params.txFifoN = true ∧
      ∃ t, step s = .next t ∧ t.params = s.params ∧ t.blk = quietCycle s.params s.sample s.blk ∧ t.host = s.host) := by
  have hc' : (s.runEngines s.sample).blk.configured = true := (engines_config s.params s.sample s.blk).1.trans hc
  cases hfull : (s.runEngines s.sample).blk.txq.full s.params.txFifoN with
  | false =>
    obtain ⟨t, hstep, -, -, -, hdone⟩ := step_putBlocking hs hhost (exec_tryput_accepted data hc' hfull)
    exact .inl ⟨t, hstep, by simpa using hdone⟩
  | true =>
    obtain ⟨t, hstep, hparams, hblk, -, hagain⟩ := step_putBlocking hs hhost (exec_tryput_refused data hc' hfull)
    exact .inr ⟨hfull, t, hstep, hparams, hblk, by simpa [statusCode] using hagain⟩

end Loop

theorem core_run_succ {s u : State} (h : step s = .next u) (k : Nat) : core.run (k + 1) s = core.run k u := by
  have hstep : core.step s = .next u := h
  simp only [Host.Core.run, hstep]

/-- A loop on a configured block ends at the latest in the cycle of the next start tick, which frees a slot. -/
theorem putBlocking_ends_by_start {n : Nat} {s : State} {data : Byte} {ops : List HostOp} (hs : s.Inv)
    (hhost : s.host = .putBlocking data :: ops) (hc : s.blk.configured = true)
    (hn : cyclesToStart s.params s.blk = n) : ∃ k t, k ≤ n + 1 ∧ core.run k s = .next t ∧ t.host = ops := by
  induction n generalizing s with
  | zero =>
    rcases step_putBlocking_cases hs hhost hc with ⟨t, hstep, hdone⟩ | ⟨hfull, -⟩
    · exact ⟨1, t, le_rfl, core_run_succ hstep 0, hdone⟩
    · obtain ⟨-, hleft⟩ := start_to_come_of_full hs.params hs.blk hc hfull
      omega
  | succ n ih =>
    rcases step_putBlocking_cases hs hhost hc with ⟨t, hstep, hdone⟩ | ⟨hfull, t, hstep, hparams, hblk, hagain⟩
    · exact ⟨1, t, by omega, core_run_succ hstep 0, hdone⟩
    · obtain ⟨hen, hleft⟩ := start_to_come_of_full hs.params hs.blk hc hfull
      have hnearer := cyclesToStart_quietCycle hs.blk hc s.sample hen hleft
      have hconf : (quietCycle s.params s.sample s.blk).configured = true :=
        (quietRun_config s.params s.blk [s.sample]).1.trans hc
      obtain ⟨k, u, hk, hrun, hdone⟩ := ih (stepKeepsInvariant s t hs hstep) (hagain.trans hhost) (hblk ▸ hconf)
        (by rw [hparams, hblk]; omega)
      exact ⟨k + 1, u, by omega, (core_run_succ hstep k).trans hrun, hdone⟩

/-- Settles O59: less than ten bit periods are left before the next start tick (`cyclesToStart_lt`), in whose cycle a
slot is free; before `INIT` the first try answers ERR_NOINIT. -/
theorem putBlockingEnds : Obligations.PutBlockingEnds := by
  intro s data ops hs hhost
  constructor
  · intro hc
    have hbound : cyclesToStart s.params s.blk < 10 * ((s.blk.top + 1) * s.params.prescaler) :=
      cyclesToStart_lt hs.blk hc
    obtain ⟨k, t, hk, hrun, hdone⟩ := putBlocking_ends_by_start hs hhost hc rfl
    exact ⟨k, t, by omega, hrun, hdone⟩
  · intro hc
    have hc' : (s.runEngines s.sample).blk.configured = false := (engines_config s.params s.sample s.blk).1.trans hc
    obtain ⟨t, hstep, -, -, hrsp, hdone⟩ := step_putBlocking hs hhost (exec_unconfigured nofun hc')
    exact ⟨t, hstep, by simpa [statusCode] using hdone, hrsp.trans respond_errNoinit⟩

end Sys2Proof.Machine

/-! # The ports and the pins of 44_cycle_and_pins.md: the response of a cycle, and what the pins show

The response port holds what the host step of the cycle left there: the rest of the cycle does not write it. The pins
are read off the record and the line. -/

namespace Sys2Proof.Machine

/-! ### The response in the cycle of its command (R220, R262, R263) -/

/-- A host step answers exactly when a word is presented, and the response is 0 when none is. -/
theorem hostStep_response {cmd : Option Word} {s u : State} (h : hostStep cmd s = .next u) :
    u.rspValid = cmd.isSome ∧ (cmd = none → u.rsp = 0#32) := by
  cases cmd with
  | none =>
    cases h
    exact ⟨rfl, fun _ => rfl⟩
  | some c => exact ⟨hostStep_rspValid h, nofun⟩

/-- Settles O18: the end of the cycle keeps the response that the host step gave. -/
theorem responseInTheCycleOfTheCommand : Obligations.ResponseInTheCycleOfTheCommand := by
  intro s t hstep hreleased
  rcases step_next_cases hstep with ⟨hreset, -⟩ | ⟨-, u, hu, rfl⟩
  · simp [hreset] at hreleased
  · rw [State.endCycle_rspValid, State.endCycle_rsp]
    exact hostStep_response hu

/-! ### The pins (R264, R270, R271) -/

theorem txPin_of_released {b : Block} (h : b.txOe = false) : txPin b = .undriven := by
  simp [txPin, h]

theorem txPin_of_driven {b : Block} (h : b.txOe = true) : txPin b = if b.txOut then .mark else .space := by
  simp [txPin, h]

/-- The sample reads the level at the head of the line, an undriven one through the pull-up register. -/
theorem sample_of_line {s : State} {l : Level} {ls : List Level} (h : s.line = l :: ls) :
    s.sample = readLevel s.blk.rxPu (Config.undrivenLevel s.pad s.cycle) l := by
  simp [State.sample, State.lineLevel, rxPullupEn, h]

/-- Settles O25: `tx_pin` by `tx_oe` and `tx_out`, the sample by the level the line shows; with the pull-up on, what an
undriven line reads does not depend on the draw. -/
theorem pinsFollowTheirRegisters : Obligations.PinsFollowTheirRegisters := by
  intro s
  refine ⟨txPin_of_released, fun hoe hout => ?mark, fun hoe hout => ?space, fun ls => sample_of_line,
    fun ls => sample_of_line, fun ls hline hpu => ?pulledUp⟩
  case mark => simp [txPin_of_driven hoe, hout]
  case space => simp [txPin_of_driven hoe, hout]
  case pulledUp => simp [sample_of_line hline, readLevel, hpu]

end Sys2Proof.Machine

/-! # Two instances on one wire (60_exceptions.md R312, R313): the pair's step, and a byte from one to the other

A receiver's run is read as the sampler firings it holds, as a transmitter's is as its Tx ticks: the receiver's fields
are taken apart from the timer and the transmitter (`rxFields`), and from a place `g` past its threshold a run takes one
sample whenever `g` and the cycles passed make up a bit period (`rxFields_quietRun`). Between two instances the `i`-th
sample falls into the `i`-th bit of the sender's frame, whatever `g` is, so the receiver takes the frame's levels. -/

namespace Sys2Proof.Machine

/-! ### The pair (R312) -/

/-- A pair steps only if both instances do. -/
theorem Pair.step_eq_next {q q' : Pair} (h : q.step = .next q') :
    Machine.step q.inputA = .next q'.a ∧ Machine.step q.inputB = .next q'.b := by
  unfold Pair.step at h
  split at h <;> cases h
  next ha hb => exact ⟨ha, hb⟩

/-- B reads A's pin as its line. -/
theorem Pair.inputB_sample (q : Pair) :
    q.inputB.sample = readLevel q.b.blk.rxPu (Config.undrivenLevel 1 q.b.cycle) (txPin q.a.blk) := rfl

/-- Settles O28: a driven pin is read as it is driven, and one that is not through B's pull-up. -/
theorem pairStepsTogether : Obligations.PairStepsTogether := by
  intro q q' h
  obtain ⟨ha, hb⟩ := Pair.step_eq_next h
  refine ⟨ha, hb, fun hoe => ?driven, fun hoe hpu => ?pulledUp⟩ <;> rw [Pair.inputB_sample]
  case driven =>
    rw [txPin_of_driven hoe]
    cases q.a.blk.txOut <;> rfl
  case pulledUp => rw [txPin_of_released hoe, hpu, readLevel, Bool.true_or]

/-! ### The receiver's fields -/

/-- What a sampler firing reads and writes (R194), and its threshold; the other fields at their power-on values. -/
def rxFields (b : Block) : Block := { Block.powerOn with
  rxCmp := b.rxCmp, rxDetEn := b.rxDetEn, rxSampEn := b.rxSampEn, rxState := b.rxState, rxBits := b.rxBits
  rxAcc := b.rxAcc, rxq := b.rxq }

section Fields
variable (b : Block)
@[simp] theorem rxFields_rxCmp : (rxFields b).rxCmp = b.rxCmp := rfl
@[simp] theorem rxFields_rxSampEn : (rxFields b).rxSampEn = b.rxSampEn := rfl
@[simp] theorem rxFields_rxq : (rxFields b).rxq = b.rxq := rfl
end Fields

theorem rxFields_afterTx (p : Params) (b : Block) : rxFields (afterTx p b) = rxFields b := by
  rw [afterTx_frame]
  rfl

theorem rxFields_rxStep (p : Params) (r : Bool) (b : Block) : rxFields (rxStep p r b) = rxStep p r (rxFields b) := by
  rcases rxStep_cases p r b with ⟨hs, e⟩ | ⟨hs, e⟩ | ⟨hs, e⟩ <;> rw [e]
  · exact (rxStep_of_start p r (b := rxFields b) hs).symm
  · rw [rxStep_of_data p r (b := rxFields b) hs, rxData, rxData, apply_ite rxFields]
    rfl
  · exact (rxStep_of_stop p r (b := rxFields b) hs).symm

/-- While the sampler is enabled, the receiver's part of a cycle is a sampler firing if the Rx event fires, and nothing
if not (R140, R194). -/
theorem rxFields_quietCycle {p : Params} {b : Block} (hb : b.Inv p) (hc : b.configured = true)
    (hen : b.rxSampEn = true) (r : Bool) :
    rxFields (quietCycle p r b) = if rxFire p b then rxStep p r (rxFields b) else rxFields b := by
  have hnone : afterDetect p r b = afterTx p b := by simp [afterDetect, edge_eq_false_of_sampling hb hc hen r]
  have hcycle : rxFields (quietCycle p r b) = rxFields (engines p r b) := rfl
  rw [hcycle, engines_configured r hc, configuredEngines_eq, hnone, apply_ite rxFields, rxFields_rxStep,
    rxFields_afterTx]

/-! ### Sampler firings over a run (R137, R140) -/

/-- The record after `k` sampler firings, the `i`-th of which takes the sample `levels i`. -/
def afterFirings (p : Params) (levels : Nat → Bool) (b : Block) (k : Nat) : Block :=
  ((List.range k).map levels).foldl (fun c r => rxStep p r c) b

@[simp] theorem afterFirings_zero (p : Params) (levels : Nat → Bool) (b : Block) : afterFirings p levels b 0 = b := rfl

theorem afterFirings_succ (p : Params) (levels : Nat → Bool) (b : Block) (k : Nat) :
    afterFirings p levels b (k + 1) = rxStep p (levels k) (afterFirings p levels b k) := by
  simp [afterFirings, List.range_succ]

/-- No sampler firing moves the threshold. -/
theorem afterFirings_rxCmp (p : Params) (levels : Nat → Bool) (b : Block) (k : Nat) :
    (afterFirings p levels b k).rxCmp = b.rxCmp := by
  induction k with
  | zero => rfl
  | succ k ih => rw [afterFirings_succ, rxStep_frame]; exact ih

section Run
variable {p : Params} {b : Block} (hb : b.Inv p) (hc : b.configured = true) {g : Nat}
  (hplace : timerPos p b = (b.rxCmp * p.prescaler + g) % bitPeriod p b)
include hb hc hplace

/-- From `g` places past the threshold, an enabled sampler fires when `g` and the cycles passed make up whole bit
periods. -/
theorem rxFire_quietRun_iff_dvd {rs : List Bool} (hen : (quietRun p b rs).rxSampEn = true)
    (hcmp : (quietRun p b rs).rxCmp = b.rxCmp) :
    rxFire p (quietRun p b rs) = true ↔ bitPeriod p b ∣ rs.length + g + 1 := by
  obtain ⟨hconf, -⟩ := quietRun_config p b rs
  obtain ⟨-, hcmpTop, -⟩ := hb.counters hc
  have hthreshold : b.rxCmp * p.prescaler < bitPeriod p b :=
    Nat.mul_lt_mul_of_pos_right (Nat.lt_succ_of_le hcmpTop) (prescaler_pos hb)
  have hreturn := Nat.add_modEq_left_iff (a := b.rxCmp * p.prescaler) (b := rs.length + g + 1) (n := bitPeriod p b)
  rw [Nat.ModEq, Nat.mod_eq_of_lt hthreshold] at hreturn
  have hmoved : b.rxCmp * p.prescaler + g + (rs.length + 1) = b.rxCmp * p.prescaler + (rs.length + g + 1) := by omega
  rw [rxFire_iff_timerPos (quietRun_keeps_inv hb rs) (hconf.trans hc), timerPos_quietRun hb hc, bitPeriod_quietRun,
    hcmp, and_iff_left hen, hplace, Nat.mod_add_mod, Nat.add_assoc _ rs.length 1, Nat.mod_add_mod, hmoved,
    hreturn]

/-- A run from `g` places past the threshold makes one sampler firing for each whole bit period in `g` and its cycles,
with the sample of the cycle it falls into, if the sampler is enabled up to the last (`m` at most). -/
theorem rxFields_quietRun (levels : Nat → Bool) {m : Nat} (hg : g < bitPeriod p b)
    (hen : ∀ k ≤ m, (afterFirings p levels (rxFields b) k).rxSampEn = true) (rs : List Bool)
    (hm : (rs.length + g) / bitPeriod p b ≤ m)
    (hlevels : ∀ i (hi : i < rs.length), bitPeriod p b ∣ i + g + 1 → rs[i] = levels ((i + g) / bitPeriod p b)) :
    rxFields (quietRun p b rs) = afterFirings p levels (rxFields b) ((rs.length + g) / bitPeriod p b) := by
  induction rs using List.reverseRecOn with
  | nil => simp [quietRun, Nat.div_eq_of_lt hg]
  | append_singleton rs r ih =>
    rw [List.length_append, List.length_singleton, Nat.add_right_comm] at hm ⊢
    have hfewer := (Nat.div_le_div_right (c := bitPeriod p b) (Nat.le_succ (rs.length + g))).trans hm
    have hbefore := ih hfewer fun i hi => List.getElem_append_left hi ▸ hlevels i (by simp; omega)
    have hsampling : (quietRun p b rs).rxSampEn = true := by rw [← rxFields_rxSampEn, hbefore, hen _ hfewer]
    have hcmp : (quietRun p b rs).rxCmp = b.rxCmp := by
      rw [← rxFields_rxCmp, hbefore, afterFirings_rxCmp, rxFields_rxCmp]
    have hfire := rxFire_quietRun_iff_dvd hb hc hplace hsampling hcmp
    rw [quietRun_concat, rxFields_quietCycle (quietRun_keeps_inv hb rs) ((quietRun_config p b rs).1.trans hc) hsampling,
      hbefore]
    by_cases hdvd : bitPeriod p b ∣ rs.length + g + 1
    · rw [if_pos (hfire.mpr hdvd), Nat.succ_div_of_dvd hdvd, afterFirings_succ,
        ← hlevels rs.length (by simp) hdvd, List.getElem_concat_length rfl]
    · rw [if_neg (mt hfire.mp hdvd), Nat.succ_div_of_not_dvd hdvd]

end Run

/-! ### A frame's levels, sent and received (R166, R195, R196) -/

/-- The level of the start bit and of the eight data bits of a frame, bit 7 first (R82). -/
def frameLevel (v : Byte) (i : Nat) : Bool := if i = 0 then false else v.getLsbD (8 - i)

/-- The start bit and the data bits of a frame on the sender's pin, a bit period each. -/
theorem txOut_eq_frameLevel {p : Params} {b : Block} (hb : b.Inv p) (hc : b.configured = true)
    (hs : b.txState = .shiftingData) (hbits : b.txBits = 8#4) (hout : b.txOut = false)
    (hcnt : b.cnt = b.top) (hpresc : b.prescCnt = 0) {rs : List Bool} {k : Nat} (hk : k < 9)
    (hlow : bitPeriod p b * k ≤ rs.length) (hhigh : rs.length < bitPeriod p b * (k + 1)) :
    (quietRun p b rs).txOut = frameLevel b.txSr k := by
  obtain ⟨hstart, hdata, -⟩ := frameWaveform p b rs (bitPeriod p b) hb hc hs hbits hout hcnt hpresc rfl
  cases k with
  | zero => exact hstart (by simpa using hhigh)
  | succ i =>
    rw [hdata i (by omega) hlow hhigh, frameLevel, if_neg (Nat.succ_ne_zero i), Nat.succ_sub_succ]

section Received
variable (p : Params) (v : Byte) {b : Block} (hs : b.rxState = .awaitingStart)
include hs

/-- The start bit and `k < 8` data bits, received. -/
theorem afterFirings_frameLevel {k : Nat} (hk : k ≤ 7) :
    afterFirings p (frameLevel v) b (k + 1) = receivingBlock v b k := by
  have hdata : frameLevel v ∘ Nat.succ = fun i => v.getLsbD (7 - i) := by
    funext i
    simp [frameLevel]
  rw [afterFirings, List.range_succ_eq_map, List.map_cons, List.map_map, hdata, List.foldl_cons,
    rxStep_start v _ hs, rxStep_foldl_frame p v b k hk]

/-- The start bit and all data bits, received: the byte is pushed, and the sampler stays enabled for the stop bit. -/
theorem afterFirings_frameLevel_last :
    (afterFirings p (frameLevel v) b 9).rxq = (b.rxq.push p.rxFifoN v).1 ∧
      (afterFirings p (frameLevel v) b 9).rxSampEn = b.rxSampEn := by
  have hbyte : shiftIn (v >>> 1) (v.getLsbD 0) = v := shiftIn_next_bit v (k := 7) (by omega)
  rw [afterFirings_succ, afterFirings_frameLevel p v hs le_rfl]
  simp [rxStep, receivingBlock, rxData, frameLevel, hbyte, -BitVec.getLsbD_eq_getElem]

theorem afterFirings_frameLevel_rxSampEn {k : Nat} (hk : k ≤ 9) :
    (afterFirings p (frameLevel v) b k).rxSampEn = b.rxSampEn := by
  rcases hk.lt_or_eq with hlt | rfl
  · cases k with
    | zero => rfl
    | succ j =>
      rw [afterFirings_frameLevel p v hs (by omega)]
      rfl
  · exact (afterFirings_frameLevel_last p v hs).2

end Received

/-! ### The detection of the start bit (R191, R192) -/

/-- A cycle with a detection leaves the receiver at the start of a frame, with `rxq` as it was and the threshold half
a bit ahead. -/
theorem quietCycle_of_edge {p : Params} {b : Block} (hb : b.Inv p) (hc : b.configured = true) {r : Bool}
    (hedge : edge r b = true) :
    (quietCycle p r b).rxSampEn = true ∧ (quietCycle p r b).rxState = .awaitingStart ∧
      (quietCycle p r b).rxq = b.rxq ∧
      (quietCycle p r b).rxCmp =
        ((quietCycle p r b).cnt + halfBit (quietCycle p r b)) % period (quietCycle p r b) := by
  obtain ⟨hdet, -, -⟩ := (edge_iff r b).mp hedge
  have hen : b.rxSampEn = false := by simpa [hdet] using hb.oneRxEvent hc
  have hfire : rxFire p b = false := by simp [rxFire, hen]
  have hengines : engines p r b = rxDetect (afterTx p b) := by
    simp [engines_configured r hc, configuredEngines_eq, afterDetect, hedge, hfire]
  have hrxq : (afterTx p b).rxq = b.rxq := by rw [afterTx_frame]
  rw [quietCycle, hengines]
  exact ⟨rfl, rfl, hrxq, rfl⟩

/-- After a detection the timer stands less than a bit period past its threshold, half a bit being to come (R192). -/
theorem timerPos_past_threshold {p : Params} {b : Block} (hb : b.Inv p) (hc : b.configured = true)
    (hcmp : b.rxCmp = (b.cnt + halfBit b) % period b) :
    ∃ g, 0 < g ∧ g < bitPeriod p b ∧ timerPos p b = (b.rxCmp * p.prescaler + g) % bitPeriod p b := by
  obtain ⟨-, -, hone⟩ := hb.counters hc
  have hpresc := prescCnt_lt hb
  have hlow : 1 ≤ halfBit b := by unfold halfBit period; omega
  have hhigh : halfBit b + 1 ≤ period b := by unfold halfBit period; omega
  obtain ⟨rest, hrest⟩ : ∃ rest, period b = halfBit b + (rest + 1) := ⟨period b - halfBit b - 1, by omega⟩
  have hperiod : bitPeriod p b = halfBit b * p.prescaler + (rest + 1) * p.prescaler := by
    rw [bitPeriod, hrest, Nat.add_mul]
  have hhalf := Nat.le_mul_of_pos_left p.prescaler hlow
  have hother := Nat.le_mul_of_pos_left p.prescaler (show 0 < rest + 1 by omega)
  refine ⟨(rest + 1) * p.prescaler + b.prescCnt, by omega, by omega, ?_⟩
  have hthreshold : b.rxCmp * p.prescaler = (b.cnt + halfBit b) * p.prescaler % bitPeriod p b := by
    rw [hcmp, bitPeriod, Nat.mul_mod_mul_right]
  have hround : (b.cnt + halfBit b) * p.prescaler + ((rest + 1) * p.prescaler + b.prescCnt) =
      timerPos p b + bitPeriod p b := by
    rw [timerPos, hperiod, Nat.add_mul]
    omega
  rw [hthreshold, Nat.mod_add_mod, hround, Nat.add_mod_right, Nat.mod_eq_of_lt (timerPos_lt hb hc)]

/-! ### The round trip (R313) -/

/-- A receiver after a detection, reading the rest of the start bit and the data bits of `v` off the line, a bit period
each, pushes `v`: its `k`-th sample falls into the `k`-th of them. -/
theorem rxq_quietRun_of_frame {p : Params} {b : Block} (hb : b.Inv p) (hc : b.configured = true)
    (hen : b.rxSampEn = true) (hs : b.rxState = .awaitingStart) (hcmp : b.rxCmp = (b.cnt + halfBit b) % period b)
    (v : Byte) {rs : List Bool} (hlen : rs.length + 1 = 9 * bitPeriod p b)
    (hline : ∀ k < 9, ∀ i (hi : i < rs.length), bitPeriod p b * k ≤ i + 1 → i + 1 < bitPeriod p b * (k + 1) →
      rs[i] = frameLevel v k) :
    (quietRun p b rs).rxq = (b.rxq.push p.rxFifoN v).1 := by
  obtain ⟨g, hpos, hlt, hplace⟩ := timerPos_past_threshold hb hc hcmp
  have hnine : (rs.length + g) / bitPeriod p b = 9 := Nat.div_eq_of_lt_le (by omega) (by omega)
  have hsampling (k : Nat) (hk : k ≤ 9) : (afterFirings p (frameLevel v) (rxFields b) k).rxSampEn = true :=
    (afterFirings_frameLevel_rxSampEn p v (b := rxFields b) hs hk).trans hen
  have hlevels (i : Nat) (hi : i < rs.length) (hdvd : bitPeriod p b ∣ i + g + 1) :
      rs[i] = frameLevel v ((i + g) / bitPeriod p b) := by
    have hbit : (i + g) / bitPeriod p b + 1 ≤ 9 := by
      rw [← Nat.succ_div_of_dvd hdvd, ← hnine]
      exact Nat.div_le_div_right (by omega)
    have hsum : bitPeriod p b * ((i + g) / bitPeriod p b + 1) = i + g + 1 := by
      rw [← Nat.succ_div_of_dvd hdvd, Nat.mul_div_cancel' hdvd]
    have hstart := hsum
    rw [Nat.mul_succ] at hstart
    exact hline _ hbit i hi (by omega) (by omega)
  rw [← rxFields_rxq, rxFields_quietRun hb hc hplace (frameLevel v) hlt hsampling rs hnine.le hlevels, hnine]
  exact (afterFirings_frameLevel_last p v (b := rxFields b) hs).1

/-- A byte pushed into an empty FIFO of two slots or more is all it holds. -/
theorem Fifo.contents_push_of_empty {n : Nat} {q : Fifo} (v : Byte) (hq : q.fits n = true) (hn : 2 ≤ n)
    (he : q.empty = true) : (q.push n v).1.contents n = [v] := by
  have hnil : q.contents n = [] := (Fifo.pop_none_iff hq).mp (by simp [Fifo.pop, he])
  rw [Fifo.contents_push hq (Fifo.not_full_of_empty hq hn he), hnil, List.nil_append]

/-- Settles O60: the first cycle of the start bit is detected, and from the next one on the receiver reads the levels of
the sender's frame. -/
theorem roundTrip : Obligations.RoundTrip := by
  rintro p p' a b rs T ha hb hpresc htop hca hsa hbits hout hcnt hprescA rfl hrs hc hdet hprev hempty hcap
  have hedge : edge false b = true := (edge_iff false b).mpr ⟨hdet, hprev, rfl⟩
  obtain ⟨hen, hs, hrxq, hcmp⟩ := quietCycle_of_edge hb hc hedge
  have hperiod : bitPeriod p' (quietCycle p' false b) = bitPeriod p a := by
    refine (bitPeriod_quietRun p' b [false]).trans ?_
    rw [bitPeriod, period, htop, hpresc]
    rfl
  have hwire {k i : Nat} (hk : k < 9) (hlow : bitPeriod p a * k ≤ i) (hhigh : i < bitPeriod p a * (k + 1)) :
      (quietRun p a (rs.take i)).txOut = frameLevel a.txSr k := by
    have hfit : i ≤ rs.length := by
      rw [hrs, Nat.mul_comm 9]
      exact hhigh.le.trans (Nat.mul_le_mul_left _ hk)
    have hlen := List.length_take_of_le hfit
    exact txOut_eq_frameLevel ha hca hsa hbits hout hcnt hprescA hk (by rwa [hlen]) (by rwa [hlen])
  obtain ⟨n, hn⟩ : ∃ n, 9 * ((a.top + 1) * p.prescaler) = n + 1 :=
    Nat.exists_eq_add_one.mpr (Nat.mul_pos (by omega) (bitPeriod_pos ha hca))
  have hfirst : (quietRun p a (rs.take 0)).txOut = false := hout
  rw [hn, List.range_succ_eq_map, List.map_cons, List.map_map, hfirst, quietRun,
    rxq_quietRun_of_frame (quietCycle_keeps_inv hb false) ((engines_config p' false b).1.trans hc) hen hs hcmp a.txSr,
    hrxq]
  · obtain ⟨-, -, hfits⟩ := (Block.fits_iff p' b).mp hb.fits
    exact Fifo.contents_push_of_empty a.txSr hfits (two_le_of_legalCapacity hcap) hempty
  · rw [hperiod, List.length_map, List.length_range]
    exact hn.symm
  · intro k hk i hi hlow hhigh
    rw [hperiod] at hlow hhigh
    simpa using hwire hk hlow hhigh

end Sys2Proof.Machine

/-! # Reset and the time before `INIT` (70_reset_and_hazards.md R330, R331)

A reset cycle and a cycle before `INIT` leave the same record, the power-on one, but for the sample: the host step can
write an unconfigured record by an accepted `INIT` only. -/

namespace Sys2Proof.Machine

/-- With legal parameters and a record of R30's shape, a step with `rst_n = 0` is the reset cycle (R330). -/
theorem step_of_reset {s : State} (hp : legalParams s.params = true) (hfits : s.blk.fits s.params = true)
    (hreset : s.ports.1 = false) : step s = .next s.resetCycle := by
  simp [step, runCycle, hp, hfits, hreset]

/-- Settles O19: the reset cycle (`step_of_reset`) leaves `Block.powerOn` and a silent response port. -/
theorem resetCycleGivesPowerOnValues : Obligations.ResetCycleGivesPowerOnValues := by
  intro s hp hfits hreset
  exact ⟨s.resetCycle, step_of_reset hp hfits hreset, s.resetCycle_rspValid, s.resetCycle_rsp, s.resetCycle_params,
    txPin_of_released rfl, s.resetCycle_blk⟩

/-- Before `INIT` a host step that accepts no `INIT` leaves the record (R34, R235). -/
theorem hostStep_blk_of_unconfigured {cmd : Option Word} {s u : State} (h : hostStep cmd s = .next u)
    (hc : s.blk.configured = false)
    (hno : ∀ c baud, cmd = some c → decode c = .instr (.init baud) → legalBaud s.params baud = false) :
    u.blk = s.blk := by
  rcases hostStep_writes h with e | ⟨baud, ⟨c, hcmd, hd⟩, hl, -⟩ | ⟨hc', -⟩ | ⟨hc', -⟩
  · exact e
  · simp [hno c baud hcmd hd] at hl
  · simp [hc] at hc'
  · simp [hc] at hc'

/-- Settles O20: neither the engines (`engines_unconfigured`) nor the host step writes the record, so the end of the
cycle writes its sample into the one before, and `tx_oe` is 0 as `configured` is
(R67). -/
theorem nothingRunsBeforeInit : Obligations.NothingRunsBeforeInit := by
  intro s t hs hc hreleased hstep hno
  rcases step_next_cases hstep with ⟨hreset, -⟩ | ⟨-, u, hu, rfl⟩
  · simp [hreset] at hreleased
  · have hengines : (s.runEngines s.sample).blk = s.blk := engines_unconfigured _ hc
    have hblk : u.blk = s.blk := (hostStep_blk_of_unconfigured hu (by rwa [hengines]) hno).trans hengines
    rw [State.endCycle_blk, hblk]
    exact ⟨rfl, txPin_of_released (hs.blk.pinDriven.trans hc)⟩

end Sys2Proof.Machine
